-- ==== Sys2Proof/Word.lean ====
section
/-! DEFINITION. The widths of the 4040 (00_scope.md R4, R6 to R9). -/
namespace Sys2Proof

/-- A 4-bit datum: the accumulator, an index register, a character, a port (R4). -/
abbrev Nibble := BitVec 4

/-- An 8-bit instruction word, register pair or SRC address (R7, R8). -/
abbrev Byte := BitVec 8

/-- A 12-bit program address PH : PM : PL (R9). -/
abbrev Addr := BitVec 12

/-- A register pair address RRR (R8). -/
abbrev PairAddr := BitVec 3

/-- OPR, or the even register of a pair: bits 7:4 (R7, R8). -/
def Byte.high (w : Byte) : Nibble := w.extractLsb' 4 4

/-- OPA, or the odd register of a pair: bits 3:0 (R7, R8). -/
def Byte.low (w : Byte) : Nibble := w.setWidth 4

end Sys2Proof
end

