-- ==== Sys2Proof/Config.lean ====
section
/-! DEFINITION. What a platform fixes (00_scope.md R5), and the free values.

A `Platform` is a value of plain data that stands in `State` and that no step writes (log 5), so that a statement
about every state is a statement about every platform. The opaque constants have no body: nothing can be proved of
their values. -/
namespace Sys2Proof

/-- `HALT_WAKE_WHEN_MASKED` (60_exceptions.md R263, 93 U7): what a masked request does to a halted processor. The
two effects the spec names; log 10. -/
inductive HaltWake where
  /-- `stay`: the request is ignored -/
  | stay
  /-- `continue`: HALT and STOP are cleared without an interrupt entry -/
  | resume
  deriving DecidableEq, Repr, Inhabited

/-- An output port of the system, wired to the extra address lines of program RAM (20_memory.md R72; log 18). -/
inductive OutPort where
  | ram (code : BitVec 3) (chip : BitVec 2)
  | rom (bank : BitVec 1) (chip : Nibble)
  deriving DecidableEq, Repr

/-- The page of program RAM that a mapped fetch reads: the value of the extra address lines with it. The spec says
only `PRAM[a[7:0]]` and leaves this open (R72, 92 D20); DESIGN CHOICE, log 34. -/
inductive FetchPage where
  /-- the value that the extra address lines have then, as WPM and RPM use it -/
  | lines
  /-- one value, whatever the lines carry -/
  | fixed (ext : Nibble)
  deriving DecidableEq, Repr

/-- Program addresses `first` to `last` of a ROM bank, where `PRAM_FETCH_MAP` holds (20_memory.md R61, R72). -/
structure FetchRegion where
  bank : BitVec 1
  first : Addr
  last : Addr
  page : FetchPage
  deriving DecidableEq, Repr

/-- The implementation parameters of R5. The population predicates and the fetch map are given as lists of the
exceptions; a ROM port (b, chip) has the index b * 16 + chip. -/
structure Platform where
  /-- `SUB_CARRY_IN_COMPLEMENTED` -/
  subCarryInComplemented : Bool
  /-- `INT_VECTOR` -/
  intVector : Addr
  /-- `RESET_PC` -/
  resetPC : Addr
  /-- `RESET_IE` -/
  resetIE : Bool
  /-- `SRCR_LOADS_DURING_INTA` -/
  srcrLoadsDuringInta : Bool
  /-- `HALT_WAKE_WHEN_MASKED` -/
  haltWakeWhenMasked : HaltWake
  /-- `PRAM_FIRST_IS_HIGH` -/
  pramFirstIsHigh : Bool
  /-- `PRAM_FETCH_MAP`: the program addresses that fetch from program RAM, as a list of regions. A region may be a
  single address, so any set of program addresses can be given. -/
  pramFetchMap : List FetchRegion
  /-- The output port wired to the extra address lines of program RAM, if there is one. -/
  pramExtraLines : Option OutPort
  /-- Whether the platform has a 4289 (93 U9). -/
  with4289 : Bool
  /-- `NUM_RAM_BANK_CODES` is 8 (true) or 4 (false). -/
  ramCodesDecoded : Bool
  /-- The addresses where `ROM_POPULATED` is false; not asked where `pramFetchMap` holds (log 35). -/
  romAbsent : List (BitVec 1 × Addr)
  /-- The chips where `RAM_POPULATED` is false. -/
  ramAbsent : List (BitVec 3 × BitVec 2)
  /-- The ports where `ROM_PORT_POPULATED` is false. -/
  romPortAbsent : List (BitVec 1 × Nibble)
  /-- The program RAM addresses (extra lines, A7 to A0) with no program RAM (93 U9), also for fetches
  (log 35). -/
  pramAbsent : List (Nibble × Byte)
  /-- `ROM_PORT_OUTPUT_MASK`: a 1 for each line coded as an output. -/
  romPortOutputMask : Vector Nibble 32
  /-- `ROM_PORT_OUTPUT_READBACK` -/
  romPortOutputReadback : Vector Nibble 32
  deriving DecidableEq, Repr

namespace Config

/-- The OPEN parameter `SRCR_LOADS_DURING_INTA` of the machine at reset (92 D9; log 13). -/
opaque srcrLoadsDuringInta : Bool

/-- The OPEN parameter `HALT_WAKE_WHEN_MASKED` of the machine at reset (92 D10; log 10). -/
opaque haltWakeWhenMasked : HaltWake

/-- FREE VALUE: the level of the test input in a step for which no input sample is scripted (R41; log 4). -/
opaque testLevel : Nat → Bool

/-- FREE VALUE: the levels on the lines of the 32 ROM ports in such a step (20_memory.md R70; log 4). -/
opaque portLevels : Nat → Vector Nibble 32

/-- FREE VALUE: what a read of an unpopulated character or port gives (93 U5; log 17). -/
opaque floatingNibble : Nat → Nibble

/-- FREE VALUE: what FIN reads from an unpopulated program address (93 U5; log 17). -/
opaque floatingWord : Nat → Byte

end Config
end Sys2Proof
end

