-- ==== Sys2Proof/Machine/Memory.lean ====
section
/-! DEFINITION. The address spaces of 20_memory.md R60, in one list of cells.

The list is in one canonical form: keys strictly rising, no entry equal to what an unlisted key reads as. Each tagged
address of the spec has a key of its own (`Loc.key`, log 28). A 4-bit character stands in the low half of its byte. -/
namespace Sys2Proof.Machine

/-- The contents of all six spaces. -/
abbrev Memory := List Host.Cell

/-- What an unlisted key reads as (log 2). -/
def Memory.unlisted : Byte := 0x00

/-- One byte of memory. -/
def Memory.read : Memory → Nat → Byte
  | [], _ => Memory.unlisted
  | c :: m, k => if c.1 = k then c.2 else Memory.read m k

/-- A cell before a list, unless it is what an unlisted key reads as. -/
def Memory.consCell (k : Nat) (v : Byte) (m : Memory) : Memory :=
  if v = Memory.unlisted then m else (k, v) :: m

/-- The memory with one byte replaced, in canonical form. -/
def Memory.write : Memory → Nat → Byte → Memory
  | [], k, v => Memory.consCell k v []
  | c :: m, k, v =>
    if k < c.1 then Memory.consCell k v (c :: m)
    else if k = c.1 then Memory.consCell k v m
    else c :: Memory.write m k v

/-- The tagged addresses (R60, 00_scope.md section 4.3). -/
inductive Loc where
  /-- program memory: ROM bank, address (R61) -/
  | rom (bank : BitVec 1) (a : Addr)
  /-- program RAM: value of the extra address lines, address A7 to A0 (R72) -/
  | pram (ext : Nibble) (a : Byte)
  /-- RAM main memory character (R66) -/
  | ramm (code : BitVec 3) (chip reg : BitVec 2) (ch : Nibble)
  /-- RAM status character (R67) -/
  | rams (code : BitVec 3) (chip reg i : BitVec 2)
  /-- RAM output port (R69) -/
  | ramPort (code : BitVec 3) (chip : BitVec 2)
  /-- ROM port, its output latch (R70) -/
  | romPort (bank : BitVec 1) (chip : Nibble)
  deriving DecidableEq, Repr

/-- Keys from here on hold 4-bit characters. -/
def charBase : Nat := 0x3000

/-- The number of keys. -/
def keyCount : Nat := 0x3A40

/-- The key of a tagged address: the six spaces one after another. -/
def Loc.key : Loc → Nat
  | .rom bank a => (bank ++ a).toNat
  | .pram ext a => 0x2000 + (ext ++ a).toNat
  | .ramm code chip reg ch => 0x3000 + (code ++ chip ++ reg ++ ch).toNat
  | .rams code chip reg i => 0x3800 + (code ++ chip ++ reg ++ i).toNat
  | .ramPort code chip => 0x3A00 + (code ++ chip).toNat
  | .romPort bank chip => 0x3A20 + (bank ++ chip).toNat

/-- Whether a space is one of 4-bit characters. -/
def Loc.isChar : Loc → Bool
  | .rom _ _ | .pram _ _ => false
  | .ramm _ _ _ _ | .rams _ _ _ _ | .ramPort _ _ | .romPort _ _ => true

/-- A cell that some tagged address can hold: its key is one of theirs, and a character has 4 bits (R65, R75). -/
abbrev cellAllowed (c : Host.Cell) : Prop := c.1 < keyCount ∧ (charBase ≤ c.1 → c.2.toNat < 16)

/-- The canonical form: keys strictly rising, no entry that an unlisted key reads as, every cell allowed. -/
abbrev Memory.wf (m : Memory) : Prop :=
  m.Pairwise (fun c d => c.1 < d.1) ∧ ∀ c ∈ m, c.2 ≠ Memory.unlisted ∧ cellAllowed c

/-- The platform's population predicates (00_scope.md R5, 20_memory.md R76). The spec does not say whether
`ROM_POPULATED(b, a)` also governs a program address that the fetch map gives to program RAM; here it does not, and
`pramAbsent` alone decides there (DESIGN CHOICE, log 35). -/
def isPopulated (p : Platform) : Loc → Bool
  | .rom bank a => !p.romAbsent.contains (bank, a)
  | .pram ext a => !p.pramAbsent.contains (ext, a)
  | .ramm code chip _ _ => !p.ramAbsent.contains (code, chip)
  | .rams code chip _ _ => !p.ramAbsent.contains (code, chip)
  | .ramPort code chip => !p.ramAbsent.contains (code, chip)
  | .romPort bank chip => !p.romPortAbsent.contains (bank, chip)

/-- Whether a region of the fetch map covers a program address. -/
def regionCovers (r : FetchRegion) (bank : BitVec 1) (a : Addr) : Bool :=
  r.bank == bank && decide (r.first.toNat ≤ a.toNat) && decide (a.toNat ≤ r.last.toNat)

/-- `PRAM_FETCH_MAP(b, a)` (R61, R72): the page of program RAM that the first region covering the address names, none
where the address fetches from ROM. -/
def fetchPage : List FetchRegion → BitVec 1 → Addr → Option FetchPage
  | [], _, _ => none
  | r :: m, bank, a => if regionCovers r bank a then some r.page else fetchPage m bank a

/-- Which half of a program RAM word `first` and `last` name is `PRAM_FIRST_IS_HIGH`'s choice (R71). The half is
the high one exactly when the two agree. -/
def halfOf (high : Bool) (w : Byte) : Nibble := if high then w.high else w.low

/-- A program RAM word with one half replaced (R72). -/
def withHalf (high : Bool) (w : Byte) (v : Nibble) : Byte := if high then v ++ w.low else w.high ++ v

end Sys2Proof.Machine
end

