-- ==== Sys2Proof/Machine/Platform.lean ====
section
/-! DEFINITION. The platform of the machine at reset: the values of 00_scope.md R5 (log 5). -/
namespace Sys2Proof.Machine

/-- `INT_VECTOR` (PRESUMED, log 8). -/
def defaultIntVector : Addr := 0x003

/-- `RESET_PC` (PRESUMED, log 6). -/
def defaultResetPC : Addr := 0x000

/-- `RESET_IE` (DESIGN CHOICE, log 7). -/
def defaultResetIE : Bool := false

/-- `SUB_CARRY_IN_COMPLEMENTED` (PRESUMED, log 12). -/
def defaultSubCarryInComplemented : Bool := true

/-- `PRAM_FIRST_IS_HIGH` (PRESUMED, log 18). -/
def defaultPramFirstIsHigh : Bool := true

/-- `PRAM_FETCH_MAP`: page 15 of either ROM bank (92 D20; log 18), read with the lines as they are (log 34). -/
def defaultPramFetchMap : List FetchRegion := [⟨0, 0xF00, 0xFFF, .lines⟩, ⟨1, 0xF00, 0xFFF, .lines⟩]

/-- `ROM_PORT_OUTPUT_MASK`: 0000 for every port (R5; log 22). -/
def defaultRomPortOutputMask : Vector Nibble 32 := .replicate 32 0

/-- `ROM_PORT_OUTPUT_READBACK`: 0000 for every port (log 22). -/
def defaultRomPortOutputReadback : Vector Nibble 32 := .replicate 32 0

/-- Everything populated, a 4289 present, eight RAM bank codes; the two parameters the spec leaves OPEN with no value
in its examples are opaque. -/
def defaultPlatform : Platform where
  subCarryInComplemented := defaultSubCarryInComplemented
  intVector := defaultIntVector
  resetPC := defaultResetPC
  resetIE := defaultResetIE
  srcrLoadsDuringInta := Config.srcrLoadsDuringInta
  haltWakeWhenMasked := Config.haltWakeWhenMasked
  pramFirstIsHigh := defaultPramFirstIsHigh
  pramFetchMap := defaultPramFetchMap
  pramExtraLines := none
  with4289 := true
  ramCodesDecoded := true
  romAbsent := []
  ramAbsent := []
  romPortAbsent := []
  pramAbsent := []
  romPortOutputMask := defaultRomPortOutputMask
  romPortOutputReadback := defaultRomPortOutputReadback

end Sys2Proof.Machine
end

