-- ==== Sys2Proof/Machine/State.lean ====
section
/-! DEFINITION. The state of the machine (10_state.md R20), why a step stops, and the state after reset. -/
namespace Sys2Proof.Machine

/-- The two states of the 4289's F/L (R42). -/
inductive Half where
  | first
  | last
  deriving DecidableEq, Repr

/-- An address latched in the RAM and ROM chips, tagged with `CR[2:0]` and `ROMB` as they were when it was sent
(R37). -/
structure Latched where
  addr : Byte
  cm : BitVec 3
  rb : BitVec 1
  deriving DecidableEq, Repr

/-- One sample of the processor's inputs (R41): the logic values that one step reads. `lines` are the levels on the
lines of the 32 ROM ports; port (b, chip) has the index b * 16 + chip. -/
structure Pins where
  resetIn : Bool
  intReq : Bool
  stopCtl : Bool
  test : Bool
  lines : Vector Nibble 32
  deriving DecidableEq, Repr

/-- Everything the spec gives the machine (R20), then the model's own fields. -/
structure State where
  /-- `ACC` (R21) -/
  acc : Nibble
  /-- `CY` (R22) -/
  cy : Bool
  /-- `IRB[0]`: index registers 0 to 7 of bank 0 (R23) -/
  irb0 : Vector Nibble 8
  /-- `IRB[1]`: index registers 0* to 7* of bank 1 (R23) -/
  irb1 : Vector Nibble 8
  /-- `IRS`: index registers 8 to 15 (R23) -/
  irs : Vector Nibble 8
  /-- `RBS`: true selects bank 1 (R24) -/
  rbs : Bool
  /-- `RBS_SAVED` (R25) -/
  rbsSaved : Bool
  /-- `STK` (R31) -/
  stk : Vector Addr 8
  /-- `SP` (R31) -/
  sp : BitVec 3
  /-- `CR` (R34) -/
  cr : Nibble
  /-- `ROMB` (R35) -/
  romb : BitVec 1
  /-- `DBCNT` (R35) -/
  dbcnt : BitVec 2
  /-- `SRCR` (R36) -/
  srcr : Byte
  /-- whether an SRC has loaded `SRCR` since reset (41_one_word_4040.md R141 (e)) -/
  srcrLoaded : Bool
  /-- `SEL` (R37) -/
  sel : Option Latched
  /-- `IE` (R38) -/
  ie : Bool
  /-- `INTA` (R39) -/
  inta : Bool
  /-- `HALT` (R40) -/
  halt : Bool
  /-- `STOP` (R40) -/
  stop : Bool
  /-- `FL` (R42) -/
  fl : Half
  /-- `ROM`, `PRAM`, `RAMM`, `RAMS`, `RAMPORT`, `ROMPORT` (20_memory.md R60) -/
  mem : Memory
  /-- MODEL: the platform, which no step writes (log 5) -/
  plat : Platform
  /-- MODEL: the input samples of the coming steps (log 4) -/
  script : List Pins
  /-- MODEL: the number of steps made, which picks fresh free values (log 4) -/
  draws : Nat
  deriving DecidableEq, Repr

/-- The machine stops with a fault. -/
inductive Fault where
  /-- SAFE. Raised by a fetch from a program address the platform does not populate (93 U5; log 17). -/
  | fetchUnpopulated (key : Nat)
  deriving DecidableEq, Repr

/-- The step has no meaning. All are SAFE: the model stops where the chip would go on in a way the spec does not
give. -/
inductive Refusal where
  /-- SAFE. Raised by `exec` for an instruction without a meaning. No arm answers it. -/
  | notModelled (mnemonic : String)
  /-- SAFE. Raised by a fetch of 0x0F, 0xFE or 0xFF (30_encoding.md R101, 93 U2; log 21). -/
  | unassignedWord (w : Byte)
  /-- SAFE. Raised by a RAM instruction when `SEL` is none or its `cm` is not `CR[2:0]` (20_memory.md R83, 93 U4;
  log 14). -/
  | ramSelectionInvalid
  /-- SAFE. Raised by RDR, WRR, WPM, RPM when `SEL` is none or its `rb` is not `ROMB` (R83, 93 U4; log 14). -/
  | romSelectionInvalid
  /-- SAFE. Raised by a RAM instruction under a code with several lines on a platform that does not decode them
  (R68, 93 U13; log 16). -/
  | ramCodeNotDecoded
  /-- SAFE. Raised by WPM and RPM on a platform without a 4289 (R72, 93 U9; log 18). -/
  | no4289
  /-- SAFE. Raised by WPM and RPM at an address with no program RAM (93 U9; log 18). -/
  | noProgramRam
  /-- SAFE. Raised by DB0 and DB1 while a ROM bank change is pending (41_one_word_4040.md R147, R148, 93 U6;
  log 20). -/
  | bankChangePending
  /-- SAFE. Raised by interrupt entry while a ROM bank change is pending (60_exceptions.md R253, 93 U6; log 20). -/
  | interruptDuringBankChange
  /-- SAFE. Raised by a step of a running processor with the STOP control applied (R262, 93 U19; log 11). -/
  | stopControlWhileRunning
  deriving DecidableEq, Repr

/-- What a meaning answers. -/
abbrev Result := Host.Outcome State Fault Refusal

/-- The processor and its surroundings as reset leaves them (R45, 70_reset_and_hazards.md R280, R281), given the
memory, the platform and the inputs, which reset does not touch. The spec fixes `CR`, `ROMB`, `RBS`, `FL`; it decides
`DBCNT`, `SP`, `INTA`, `HALT`, `STOP`, `SEL` (log 7); the platform gives `RESET_PC` and `RESET_IE`; the zeros of
`ACC`, `CY`, the index registers, `RBS_SAVED`, `SRCR` and the other stack registers are the model's choice (log 1). -/
def resetWith (mem : Memory) (plat : Platform) (script : List Pins) (draws : Nat) : State where
  acc := 0
  cy := false
  irb0 := .replicate 8 0
  irb1 := .replicate 8 0
  irs := .replicate 8 0
  rbs := false
  rbsSaved := false
  stk := (Vector.replicate 8 0).set 0 plat.resetPC
  sp := 0
  cr := 0b0000
  romb := 0
  dbcnt := 0
  srcr := 0
  srcrLoaded := false
  sel := none
  ie := plat.resetIE
  inta := false
  halt := false
  stop := false
  fl := .first
  mem := mem
  plat := plat
  script := script
  draws := draws

/-- The machine right after power-on reset: nothing in memory, no input sample scripted. -/
def State.reset : State := resetWith [] defaultPlatform [] 0

end Sys2Proof.Machine
end

