-- ==== Sys2Proof/Machine/Flags.lean ====
section
/-! DEFINITION. The arithmetic of the processor: results and the carry (44_accumulator.md R234).

Every sum is taken in 5 bits; bits 3:0 are the result and bit 4 the carry out. -/
namespace Sys2Proof.Machine

/-- A 4-bit result and the carry that goes with it. -/
structure Sum4 where
  value : Nibble
  carry : Bool
  deriving DecidableEq, Repr

/-- `s <- a + b + cin`; `s[3:0]` and `s[4]` (R234). -/
def add4 (a b : Nibble) (cin : Bool) : Sum4 :=
  let s : BitVec 5 := a.setWidth 5 + b.setWidth 5 + (BitVec.ofBool cin).setWidth 5
  { value := s.setWidth 4, carry := s[4] }

/-- The carry that goes into a subtraction: complemented or not (40_one_word_basic.md R125; log 12). -/
def borrowIn (complemented cy : Bool) : Bool := if complemented then !cy else cy

/-- SUB and SBM (R125, 43_io_ram.md R204): the complement of the subtrahend is added; carry 1 means no borrow. -/
def sub4 (complemented : Bool) (a b : Nibble) (cy : Bool) : Sum4 := add4 a (~~~b) (borrowIn complemented cy)

/-- RAL (R227): the accumulator and the carry rotated left. -/
def rotateLeft (a : Nibble) (cy : Bool) : Sum4 :=
  { value := a.setWidth 3 ++ BitVec.ofBool cy, carry := a[3] }

/-- RAR (R228): the accumulator and the carry rotated right. -/
def rotateRight (a : Nibble) (cy : Bool) : Sum4 :=
  { value := BitVec.ofBool cy ++ a.extractLsb' 1 3, carry := a[0] }

/-- DAA (R230): 6 is added if the carry is 1 or the accumulator is above 9; the carry can only become 1. -/
def decimalAdjust (a : Nibble) (cy : Bool) : Sum4 :=
  if cy || 9#4 < a then { value := (add4 a 6 false).value, carry := (add4 a 6 false).carry || cy }
  else { value := a, carry := cy }

/-- KBP (R232): 1 out of n to binary, 15 for more than one bit. -/
def keyboardCode (a : Nibble) : Nibble :=
  match a with
  | 0b0000#4 => 0
  | 0b0001#4 => 1
  | 0b0010#4 => 2
  | 0b0100#4 => 3
  | 0b1000#4 => 4
  | _ => 15

/-- TCS (R231): 9 if the carry is 0, 10 if it is 1. -/
def carrySubtract (cy : Bool) : Nibble := if cy then 0b1010 else 0b1001

end Sys2Proof.Machine
end

