-- ==== Sys2Proof/Machine/Ops.lean ====
section
/-! DEFINITION. The named operations: inputs, program counter and address stack, ROM bank delay, memory, the latched
address, interrupt entry and return, reset. -/
namespace Sys2Proof.Machine

/-! ### Inputs of a step (10_state.md R41, log 4) -/

/-- The inputs of a step for which no sample is scripted: no event, and free levels. -/
def freePins (n : Nat) : Pins where
  resetIn := false
  intReq := false
  stopCtl := false
  test := Config.testLevel n
  lines := Config.portLevels n

/-- The inputs that the present step reads. -/
def State.pins (s : State) : Pins :=
  match s.script with
  | p :: _ => p
  | [] => freePins s.draws

/-- The present input sample is used up. -/
def State.advance (s : State) : State := { s with script := s.script.tail, draws := s.draws + 1 }

/-! ### Program counter and address stack (R31 to R33) -/

/-- The program counter: the selected register of the address stack (R31). -/
def State.pc (s : State) : Addr := s.stk[s.sp.toNat]'s.sp.isLt

/-- `pc <- t` (R31). -/
def State.setPc (s : State) (t : Addr) : State := { s with stk := s.stk.set s.sp.toNat t s.sp.isLt }

/-- `push(t)` (R32): the return address stays in the register that was the program counter. -/
def State.push (s : State) (t : Addr) : State :=
  { s with sp := s.sp + 1, stk := s.stk.set (s.sp + 1).toNat t (s.sp + 1).isLt }

/-- `pop()` (R32). -/
def State.pop (s : State) : State := { s with sp := s.sp - 1 }

/-- The address `a8` in the page of the next instruction (42_two_word.md R176, 00_scope.md R12). -/
def State.samePage (s : State) (a8 : Byte) : Addr := s.pc.extractLsb' 8 4 ++ a8

/-! ### Command register and ROM bank (R34, R35) -/

/-- `CR[3]`, the designated ROM bank. -/
def State.cr3 (s : State) : BitVec 1 := s.cr.extractLsb' 3 1

/-- `CR[2:0]`, the RAM command line code. -/
def State.cm (s : State) : BitVec 3 := s.cr.setWidth 3

/-- `tick()`: one instruction cycle passes (70_reset_and_hazards.md R287). -/
def State.tick (s : State) : State :=
  { s with
    dbcnt := if s.dbcnt = 0 then 0 else s.dbcnt - 1
    romb := if s.dbcnt = 1 then s.cr3 else s.romb }

/-- DB0 and DB1 (41_one_word_4040.md R147, R148): `CR[3]` at once, `ROMB` in the third cycle after; no meaning while
a change is pending (93 U6). -/
def State.designateRomBank (s : State) (bank : BitVec 1) : Result :=
  if s.dbcnt = 0 then .next { s with cr := bank ++ s.cm, dbcnt := 3 }
  else .refused .bankChangePending

/-! ### Memory (20_memory.md) -/

/-- The character at a tagged address; free where the platform has none (93 U5; log 17). -/
def State.load (s : State) (l : Loc) : Nibble :=
  if isPopulated s.plat l then (s.mem.read l.key).low else Config.floatingNibble s.draws

/-- The character at a tagged address is replaced; no effect where the platform has none (93 U5; log 17). -/
def State.store (s : State) (l : Loc) (v : Nibble) : State :=
  { s with mem := if isPopulated s.plat l then s.mem.write l.key (v.setWidth 8) else s.mem }

/-- The mask of the output lines of a ROM port (R70). -/
def romPortMask (p : Platform) (bank : BitVec 1) (chip : Nibble) : Nibble :=
  p.romPortOutputMask[(bank ++ chip).toNat]'(bank ++ chip).isLt

/-- `PortRead(ROMPORT(b, chip))` (R70): per line, the user's constant if it is an output, else the level on it. -/
def State.readRomPort (s : State) (bank : BitVec 1) (chip : Nibble) : Nibble :=
  if isPopulated s.plat (.romPort bank chip) then
    (s.plat.romPortOutputReadback[(bank ++ chip).toNat]'(bank ++ chip).isLt &&& romPortMask s.plat bank chip)
      ||| (s.pins.lines[(bank ++ chip).toNat]'(bank ++ chip).isLt &&& ~~~(romPortMask s.plat bank chip))
  else Config.floatingNibble s.draws

/-- What the platform sees on the output lines of a ROM port: the latch, on the lines coded as outputs (R70,
43_io_ram.md R201; log 22). Lines coded as inputs read 0 here. -/
def State.romPortOutputs (s : State) (bank : BitVec 1) (chip : Nibble) : Nibble :=
  (s.mem.read (Loc.romPort bank chip).key).low &&& romPortMask s.plat bank chip

/-- What the platform sees on the output port of a RAM chip (R69). -/
def State.ramPortOutputs (s : State) (code : BitVec 3) (chip : BitVec 2) : Nibble :=
  (s.mem.read (Loc.ramPort code chip).key).low

/-- The extra address lines of program RAM: the output port that the platform wires to them, 0 if none (R72;
log 18). -/
def State.extraLines (s : State) : Nibble :=
  match s.plat.pramExtraLines with
  | none => 0
  | some (.ram code chip) => s.ramPortOutputs code chip
  | some (.rom bank chip) => s.romPortOutputs bank chip

/-- The space that answers a program address in the activated ROM bank (R61, R62, R72). Which page of program RAM a
mapped fetch reads is open in the spec; the model's choice is the platform's `FetchPage` (DESIGN CHOICE, log 34). -/
def State.programLoc (s : State) (a : Addr) : Loc :=
  match fetchPage s.plat.pramFetchMap s.romb a with
  | some .lines => .pram s.extraLines (a.setWidth 8)
  | some (.fixed ext) => .pram ext (a.setWidth 8)
  | none => .rom s.romb a

/-- FIN's data word (40_one_word_basic.md R130); free where the platform has none (93 U5; log 17). -/
def State.readProgram (s : State) (a : Addr) : Byte :=
  if isPopulated s.plat (s.programLoc a) then s.mem.read (s.programLoc a).key else Config.floatingWord s.draws

/-! ### The latched address (10_state.md R36, R37) -/

/-- An SRC address as the chips latch it now. -/
def State.latch (s : State) (addr : Byte) : Latched := { addr := addr, cm := s.cm, rb := s.romb }

/-- SRC (40_one_word_basic.md R129): the address goes to the chips, and to `SRCR` unless the open parameter keeps
`SRCR` during an interrupt routine (log 13). -/
def State.sendSrc (s : State) (addr : Byte) : State :=
  { s with
    srcr := if !s.inta || s.plat.srcrLoadsDuringInta then addr else s.srcr
    srcrLoaded := !s.inta || s.plat.srcrLoadsDuringInta || s.srcrLoaded
    sel := some (s.latch addr) }

/-! ### Interrupt entry and return (60_exceptions.md R253, R257) -/

/-- Whether a request is recognised: INT_REQ = 1, IE = 1, INTA = 0 (R252). -/
def State.interruptRecognised (s : State) : Bool := s.pins.intReq && s.ie && !s.inta

/-- The forced JMS and what goes with it (R253). -/
def State.forcedJms (s : State) : State :=
  { s.push s.plat.intVector with halt := false, stop := false, rbsSaved := s.rbs, inta := true }

/-- `interrupt_entry()` (R253): no meaning while a ROM bank change is pending (93 U6). -/
def State.interruptEntry (s : State) : Result :=
  if s.dbcnt = 0 then .next s.forcedJms else .refused .interruptDuringBankChange

/-- BBS (41_one_word_4040.md R141): pop, INTA off, the register bank back, `SRCR` sent out again; `SEL` becomes none
if no SRC has loaded `SRCR`. -/
def State.returnFromInterrupt (s : State) : State :=
  { s.pop with
    inta := false
    rbs := s.rbsSaved
    sel := if s.srcrLoaded then some (s.latch s.srcr) else none }

/-! ### Halt and reset (60_exceptions.md R263, 70_reset_and_hazards.md R280) -/

/-- HLT's continuation: both flip-flops cleared (R263). -/
def State.wake (s : State) : State := { s with halt := false, stop := false }

/-- `halted_step()` (R263). -/
def State.haltedStep (s : State) : Result :=
  if s.interruptRecognised then s.tick.interruptEntry
  else if s.pins.stopCtl then .next s.tick.wake
  else if s.pins.intReq then
    match s.plat.haltWakeWhenMasked with
    | .stay => .next s.tick
    | .resume => .next s.tick.wake
  else .next s.tick

/-- `reset()` of a running system (R280, R282): memory and port latches keep their contents. -/
def State.resetEvent (s : State) : State := resetWith s.mem s.plat s.script s.draws

end Sys2Proof.Machine
end

