-- ==== Sys2Proof/Machine/Operands.lean ====
section
/-! DEFINITION. The operand forms: index registers and pairs, the jump condition, the locations that an SRC
selected, the command lines. -/
namespace Sys2Proof.Machine

/-! ### Index registers (10_state.md R23, R26) -/

/-- Which of the registers a file of eight holds is named by RRRR: its low three bits. -/
def regIndex (r : Nibble) : BitVec 3 := r.setWidth 3

/-- One register of a file of eight. -/
def fileGet (f : Vector Nibble 8) (i : BitVec 3) : Nibble := f[i.toNat]'i.isLt

/-- A file of eight with one register replaced. -/
def fileSet (f : Vector Nibble 8) (i : BitVec 3) (v : Nibble) : Vector Nibble 8 := f.set i.toNat v i.isLt

/-- `x[r]`: registers 8 to 15 are shared, 0 to 7 are those of the selected bank (R23). -/
def State.x (s : State) (r : Nibble) : Nibble :=
  if r[3] then fileGet s.irs (regIndex r)
  else if s.rbs then fileGet s.irb1 (regIndex r)
  else fileGet s.irb0 (regIndex r)

/-- `x[r] <- v` (R23). -/
def State.setX (s : State) (r v : Nibble) : State :=
  { s with
    irs := if r[3] then fileSet s.irs (regIndex r) v else s.irs
    irb1 := if !r[3] && s.rbs then fileSet s.irb1 (regIndex r) v else s.irb1
    irb0 := if !r[3] && !s.rbs then fileSet s.irb0 (regIndex r) v else s.irb0 }

/-- The even register RRR0 of a pair (00_scope.md R8). -/
def evenOf (p : PairAddr) : Nibble := p ++ 0#1

/-- The odd register RRR1 of a pair (R8). -/
def oddOf (p : PairAddr) : Nibble := p ++ 1#1

/-- `xp[p]`: the even register is the high half (R8). -/
def State.xp (s : State) (p : PairAddr) : Byte := s.x (evenOf p) ++ s.x (oddOf p)

/-- `xp[p] <- v` (R8). -/
def State.setXp (s : State) (p : PairAddr) (v : Byte) : State :=
  (s.setX (evenOf p) v.high).setX (oddOf p) v.low

/-! ### The jump condition (42_two_word.md R173) -/

/-- `t`, before C1 inverts it. -/
def conditionMet (cond acc : Nibble) (cy test : Bool) : Bool :=
  (cond[2] && acc == 0) || (cond[1] && cy) || (cond[0] && !test)

/-- Whether JCN jumps: C1, bit 3 of the condition, inverts. -/
def jumps (cond acc : Nibble) (cy test : Bool) : Bool :=
  if cond[3] then !conditionMet cond acc cy test else conditionMet cond acc cy test

/-! ### What the last SRC selected (20_memory.md R64, R83, 43_io_ram.md R189) -/

/-- The RAM register and character selected in the enabled bank. -/
structure RamSel where
  code : BitVec 3
  chip : BitVec 2
  reg : BitVec 2
  ch : Nibble
  deriving DecidableEq, Repr

/-- The fields of an SRC address for RAM (R64). -/
def ramFields (code : BitVec 3) (addr : Byte) : RamSel where
  code := code
  chip := addr.extractLsb' 6 2
  reg := addr.extractLsb' 4 2
  ch := addr.setWidth 4

/-- Whether a code selects storage of its own: one that enables a single line always does, the others where the
platform decodes the lines (R68, 93 U13; log 16). -/
def ramCodeUsable (p : Platform) (code : BitVec 3) : Bool :=
  p.ramCodesDecoded || code == 0b000 || code == 0b001 || code == 0b010 || code == 0b100

/-- `ram_sel()` (R189), or why there is no RAM selection. -/
def State.ramSel (s : State) : Except Refusal RamSel :=
  match s.sel with
  | none => .error .ramSelectionInvalid
  | some l =>
    if l.cm = s.cm then
      if ramCodeUsable s.plat s.cm then .ok (ramFields s.cm l.addr) else .error .ramCodeNotDecoded
    else .error .ramSelectionInvalid

/-- The SRC address that RDR, WRR, WPM and RPM use (R83), or why there is none. -/
def State.romAddr (s : State) : Except Refusal Byte :=
  match s.sel with
  | none => .error .romSelectionInvalid
  | some l => if l.rb = s.romb then .ok l.addr else .error .romSelectionInvalid

/-- The program RAM word that WPM and RPM reach (41_one_word_4040.md R151, R152), or why there is none. -/
def State.pramSel (s : State) : Except Refusal Loc :=
  if s.plat.with4289 then
    match s.romAddr with
    | .error e => .error e
    | .ok addr =>
      if isPopulated s.plat (.pram s.extraLines addr) then .ok (.pram s.extraLines addr) else .error .noProgramRam
  else .error .no4289

/-- Whether the next WPM or RPM moves bits 7:4 (R71). -/
def State.movesHigh (s : State) : Bool := (s.fl == .first) == s.plat.pramFirstIsHigh

/-- F/L toggles with each WPM and RPM (R42). -/
def Half.toggle : Half → Half
  | .first => .last
  | .last => .first

/-! ### Command lines (20_memory.md R68) -/

/-- The enabled lines CM-RAM0 to CM-RAM3, line i in bit i, by the code `CR[2:0]`. -/
def cmRamLines (code : BitVec 3) : Nibble := code ++ BitVec.ofBool (code == 0)

/-- The source's bank number of a code (the table of R68). -/
def ramBankNumber (code : BitVec 3) : Nat :=
  match code with
  | 0b000#3 => 0
  | 0b001#3 => 1
  | 0b010#3 => 2
  | 0b100#3 => 3
  | 0b011#3 => 4
  | 0b101#3 => 5
  | 0b110#3 => 6
  | _ => 7

end Sys2Proof.Machine
end

