-- ==== Sys2Proof/Machine/Accumulator.lean ====
section
/-! DEFINITION. The accumulator group (44_accumulator.md R220 to R234). -/
namespace Sys2Proof.Machine

/-- A result to `ACC` and its carry to `CY`. -/
def State.setSum (s : State) (r : Sum4) : State := { s with acc := r.value, cy := r.carry }

/-- R220 -/
def execClb (s : State) : Result := .next { s with acc := 0, cy := false }

/-- R221 -/
def execClc (s : State) : Result := .next { s with cy := false }

/-- R222 -/
def execCmc (s : State) : Result := .next { s with cy := !s.cy }

/-- R223 -/
def execStc (s : State) : Result := .next { s with cy := true }

/-- R224 -/
def execCma (s : State) : Result := .next { s with acc := ~~~s.acc }

/-- R225: the old carry is not added. -/
def execIac (s : State) : Result := .next (s.setSum (add4 s.acc 1 false))

/-- R226: 1111 is added; carry 0 means a borrow. -/
def execDac (s : State) : Result := .next (s.setSum (add4 s.acc 0b1111 false))

/-- R227 -/
def execRal (s : State) : Result := .next (s.setSum (rotateLeft s.acc s.cy))

/-- R228 -/
def execRar (s : State) : Result := .next (s.setSum (rotateRight s.acc s.cy))

/-- R229 -/
def execTcc (s : State) : Result := .next { s with acc := (BitVec.ofBool s.cy).setWidth 4, cy := false }

/-- R230 -/
def execDaa (s : State) : Result := .next (s.setSum (decimalAdjust s.acc s.cy))

/-- R231 -/
def execTcs (s : State) : Result := .next { s with acc := carrySubtract s.cy, cy := false }

/-- R232 -/
def execKbp (s : State) : Result := .next { s with acc := keyboardCode s.acc }

/-- R233: `CR[3]` stays. -/
def execDcl (s : State) : Result := .next { s with cr := s.cr3 ++ s.acc.setWidth 3 }

end Sys2Proof.Machine
end

