-- ==== Sys2Proof/Machine/Basic.lean ====
section
/-! DEFINITION. The one-word instructions NOP to FIN (40_one_word_basic.md R120 to R130). In every meaning `s` is the
state after the fetch: its `pc` is the next instruction's (00_scope.md R12). -/
namespace Sys2Proof.Machine

/-- R120 -/
def execNop (s : State) : Result := .next s

/-- R121 -/
def execLdm (d : Nibble) (s : State) : Result := .next { s with acc := d }

/-- R122 -/
def execLd (r : Nibble) (s : State) : Result := .next { s with acc := s.x r }

/-- R123 -/
def execXch (r : Nibble) (s : State) : Result := .next { s.setX r s.acc with acc := s.x r }

/-- R124 -/
def execAdd (r : Nibble) (s : State) : Result :=
  let sum := add4 (s.x r) s.acc s.cy
  .next { s with acc := sum.value, cy := sum.carry }

/-- R125 -/
def execSub (r : Nibble) (s : State) : Result :=
  let sum := sub4 s.plat.subCarryInComplemented s.acc (s.x r) s.cy
  .next { s with acc := sum.value, cy := sum.carry }

/-- R126 -/
def execInc (r : Nibble) (s : State) : Result := .next (s.setX r (s.x r + 1))

/-- R127 -/
def execBbl (d : Nibble) (s : State) : Result := .next { s.pop with acc := d }

/-- R128 -/
def execJin (p : PairAddr) (s : State) : Result := .next (s.setPc (s.samePage (s.xp p)))

/-- R129 -/
def execSrc (p : PairAddr) (s : State) : Result := .next (s.sendSrc (s.xp p))

/-- R130: the second cycle passes before the data word is read; the address comes from pair 0. -/
def execFin (p : PairAddr) (s : State) : Result :=
  .next (s.tick.setXp p (s.tick.readProgram (s.samePage (s.xp 0))))

end Sys2Proof.Machine
end

