-- ==== Sys2Proof/Machine/Extended.lean ====
section
/-! DEFINITION. The one-word instructions HLT to DIN (41_one_word_4040.md R140 to R154). -/
namespace Sys2Proof.Machine

/-- R140 -/
def execHlt (s : State) : Result := .next { s with halt := true, stop := true }

/-- R141 -/
def execBbs (s : State) : Result := .next s.returnFromInterrupt

/-- R142 -/
def execLcr (s : State) : Result := .next { s with acc := s.cr }

/-- R143 -/
def execOr4 (s : State) : Result := .next { s with acc := s.acc ||| s.x 4 }

/-- R144 -/
def execOr5 (s : State) : Result := .next { s with acc := s.acc ||| s.x 5 }

/-- R145 -/
def execAn6 (s : State) : Result := .next { s with acc := s.acc &&& s.x 6 }

/-- R146 -/
def execAn7 (s : State) : Result := .next { s with acc := s.acc &&& s.x 7 }

/-- R147 -/
def execDb0 (s : State) : Result := s.designateRomBank 0

/-- R148 -/
def execDb1 (s : State) : Result := s.designateRomBank 1

/-- R149 -/
def execSb0 (s : State) : Result := .next { s with rbs := false }

/-- R150 -/
def execSb1 (s : State) : Result := .next { s with rbs := true }

/-- R151 -/
def execWpm (s : State) : Result :=
  match s.pramSel with
  | .error e => .refused e
  | .ok l =>
    .next { s with mem := s.mem.write l.key (withHalf s.movesHigh (s.mem.read l.key) s.acc), fl := s.fl.toggle }

/-- R152 -/
def execRpm (s : State) : Result :=
  match s.pramSel with
  | .error e => .refused e
  | .ok l => .next { s with acc := halfOf s.movesHigh (s.mem.read l.key), fl := s.fl.toggle }

/-- R153 -/
def execEin (s : State) : Result := .next { s with ie := true }

/-- R154 -/
def execDin (s : State) : Result := .next { s with ie := false }

end Sys2Proof.Machine
end

