-- ==== Sys2Proof/Machine/InOut.lean ====
section
/-! DEFINITION. The input/output and RAM instructions (43_io_ram.md R189 to R204): each acts on what the last SRC
selected. -/
namespace Sys2Proof.Machine

/-- The state after an action on the RAM selection, or the refusal of an invalid one (R189). -/
def State.onRam (s : State) (act : RamSel → State) : Result :=
  match s.ramSel with
  | .error e => .refused e
  | .ok a => .next (act a)

/-- The state after an action on the ROM port selection, chip = address bits 7:4 (R189, 20_memory.md R64; log 15),
or the refusal of an invalid one. -/
def State.onRomPort (s : State) (act : BitVec 1 → Nibble → State) : Result :=
  match s.romAddr with
  | .error e => .refused e
  | .ok addr => .next (act s.romb addr.high)

/-- The selected main memory character (20_memory.md R66). -/
def RamSel.main (a : RamSel) : Loc := .ramm a.code a.chip a.reg a.ch

/-- Status character `i` of the selected register (20_memory.md R67): the character field is not used (R65). -/
def RamSel.status (a : RamSel) (i : BitVec 2) : Loc := .rams a.code a.chip a.reg i

/-- RD0 to RD3 (R191). -/
def State.readStatus (s : State) (i : BitVec 2) : Result := s.onRam fun a => { s with acc := s.load (a.status i) }

/-- WR0 to WR3 (R197). -/
def State.writeStatus (s : State) (i : BitVec 2) : Result := s.onRam fun a => s.store (a.status i) s.acc

/-- R190 -/
def execRdm (s : State) : Result := s.onRam fun a => { s with acc := s.load a.main }

/-- R191 -/
def execRd0 (s : State) : Result := s.readStatus 0

/-- R192 -/
def execRd1 (s : State) : Result := s.readStatus 1

/-- R193 -/
def execRd2 (s : State) : Result := s.readStatus 2

/-- R194 -/
def execRd3 (s : State) : Result := s.readStatus 3

/-- R195 -/
def execRdr (s : State) : Result := s.onRomPort fun bank chip => { s with acc := s.readRomPort bank chip }

/-- R196 -/
def execWrm (s : State) : Result := s.onRam fun a => s.store a.main s.acc

/-- R197 -/
def execWr0 (s : State) : Result := s.writeStatus 0

/-- R198 -/
def execWr1 (s : State) : Result := s.writeStatus 1

/-- R199 -/
def execWr2 (s : State) : Result := s.writeStatus 2

/-- R200 -/
def execWr3 (s : State) : Result := s.writeStatus 3

/-- R201: the port's latch takes the accumulator; only lines coded as outputs show it (log 22). -/
def execWrr (s : State) : Result := s.onRomPort fun bank chip => s.store (.romPort bank chip) s.acc

/-- R202 -/
def execWmp (s : State) : Result := s.onRam fun a => s.store (.ramPort a.code a.chip) s.acc

/-- R203 -/
def execAdm (s : State) : Result := s.onRam fun a =>
  let sum := add4 (s.load a.main) s.acc s.cy
  { s with acc := sum.value, cy := sum.carry }

/-- R204 -/
def execSbm (s : State) : Result := s.onRam fun a =>
  let sum := sub4 s.plat.subCarryInComplemented s.acc (s.load a.main) s.cy
  { s with acc := sum.value, cy := sum.carry }

end Sys2Proof.Machine
end

