-- ==== Sys2Proof/Machine/TwoWord.lean ====
section
/-! DEFINITION. The two-word instructions (42_two_word.md R170 to R176). -/
namespace Sys2Proof.Machine

/-- R170 -/
def execJun (a12 : Addr) (s : State) : Result := .next (s.setPc a12)

/-- R171 -/
def execJms (a12 : Addr) (s : State) : Result := .next (s.push a12)

/-- R172 -/
def execJcn (c : Nibble) (a8 : Byte) (s : State) : Result :=
  .next (s.setPc (if jumps c s.acc s.cy s.pins.test then s.samePage a8 else s.pc))

/-- R174: the jump is taken when the incremented register is not zero. -/
def execIsz (r : Nibble) (a8 : Byte) (s : State) : Result :=
  .next ((s.setX r (s.x r + 1)).setPc (if s.x r + 1 = 0 then s.pc else s.samePage a8))

/-- R175 -/
def execFim (p : PairAddr) (d8 : Byte) (s : State) : Result := .next (s.setXp p d8)

end Sys2Proof.Machine
end

