-- ==== Sys2Proof/Syntax.lean ====
section
/-! DEFINITION. The instruction set: the 60 mnemonics of 30_encoding.md R96, one constructor per row of the opcode
table. An operand has exactly the width of its field (R94), so each value of `Instr` has an encoding. -/
namespace Sys2Proof

/-- `r` is an index register address RRRR, `p` a pair address RRR, `d` data DDDD, `c` the condition C1C2C3C4 with C1
its bit 3, `a8` an address in a page, `a12` a program address, `d8` data for a pair. -/
inductive Instr where
  -- OPR 0000 (R97)
  | nop | hlt | bbs | lcr | or4 | or5 | an6 | an7 | db0 | db1 | sb0 | sb1 | ein | din | rpm
  -- OPR 0001 to 1101 (R95)
  | jcn (c : Nibble) (a8 : Byte)
  | fim (p : PairAddr) (d8 : Byte)
  | src (p : PairAddr)
  | fin (p : PairAddr)
  | jin (p : PairAddr)
  | jun (a12 : Addr)
  | jms (a12 : Addr)
  | inc (r : Nibble)
  | isz (r : Nibble) (a8 : Byte)
  | add (r : Nibble)
  | sub (r : Nibble)
  | ld (r : Nibble)
  | xch (r : Nibble)
  | bbl (d : Nibble)
  | ldm (d : Nibble)
  -- OPR 1110 (R98)
  | wrm | wmp | wrr | wpm | wr0 | wr1 | wr2 | wr3 | sbm | rdm | rdr | adm | rd0 | rd1 | rd2 | rd3
  -- OPR 1111 (R99)
  | clb | clc | iac | cmc | cma | ral | rar | tcc | dac | tcs | stc | daa | kbp | dcl
  deriving DecidableEq, Repr

end Sys2Proof
end

