-- ==== Sys2Proof/WellFormed.lean ====
section
/-! DEFINITION. Well-formed instruction words (30_encoding.md R90, R93, R101).

A term of `Instr` cannot be ill formed: its operands have the widths of their fields. What can be ill formed is a
list of words offered as one instruction, and these are the checks on it. -/
namespace Sys2Proof

/-- R93: the first words that take a second word. -/
def isTwoWord (w1 : Byte) : Bool :=
  w1.high == 0b0001#4 || w1.high == 0b0100#4 || w1.high == 0b0101#4 || w1.high == 0b0111#4
    || (w1.high == 0b0010#4 && !w1[0])

/-- R101: the first words assigned to no instruction are 0x0F, 0xFE and 0xFF. -/
def isAssigned (w1 : Byte) : Bool :=
  w1 != 0x0F#8 && w1 != 0xFE#8 && w1 != 0xFF#8

/-- The words of one instruction, no word missing (R93), none left over (R90), the first one assigned (R101). -/
def wordsWellFormed : List Byte → Bool
  | [w1] => isAssigned w1 && !isTwoWord w1
  | [w1, _] => isTwoWord w1
  | _ => false

end Sys2Proof
end

