-- ==== Sys2Proof/Decode.lean ====
section
/-! DEFINITION. The decoder (30_encoding.md R90 to R101), total on any words, and the encoder after it. -/
namespace Sys2Proof

/-- Why a list of words begins with no instruction. -/
inductive DecodeError where
  /-- there is no word -/
  | noWord
  /-- the first word is assigned to no instruction (R101) -/
  | unassigned (w1 : Byte)
  /-- the second word of a two-word instruction is missing (R93) -/
  | secondWordMissing (w1 : Byte)
  deriving DecidableEq, Repr

/-- What the decoder answers: the instruction and the words after it, or why there is none. -/
inductive Decoded where
  | ok (i : Instr) (rest : List Byte)
  | invalid (e : DecodeError)
  deriving DecidableEq, Repr

/-- The pair address RRR in bits 3:1 of a first word (R94). -/
def pairField (w1 : Byte) : PairAddr := w1.extractLsb' 1 3

/-- R97: OPR = 0000. -/
def decodeGroup0 (opa : Nibble) : Option Instr :=
  match opa with
  | 0x0#4 => some .nop
  | 0x1#4 => some .hlt
  | 0x2#4 => some .bbs
  | 0x3#4 => some .lcr
  | 0x4#4 => some .or4
  | 0x5#4 => some .or5
  | 0x6#4 => some .an6
  | 0x7#4 => some .an7
  | 0x8#4 => some .db0
  | 0x9#4 => some .db1
  | 0xA#4 => some .sb0
  | 0xB#4 => some .sb1
  | 0xC#4 => some .ein
  | 0xD#4 => some .din
  | 0xE#4 => some .rpm
  | _ => none

/-- R98: OPR = 1110. All 16 values of OPA are assigned. -/
def decodeGroupE (opa : Nibble) : Option Instr :=
  match opa with
  | 0x0#4 => some .wrm
  | 0x1#4 => some .wmp
  | 0x2#4 => some .wrr
  | 0x3#4 => some .wpm
  | 0x4#4 => some .wr0
  | 0x5#4 => some .wr1
  | 0x6#4 => some .wr2
  | 0x7#4 => some .wr3
  | 0x8#4 => some .sbm
  | 0x9#4 => some .rdm
  | 0xA#4 => some .rdr
  | 0xB#4 => some .adm
  | 0xC#4 => some .rd0
  | 0xD#4 => some .rd1
  | 0xE#4 => some .rd2
  | 0xF#4 => some .rd3
  | _ => none

/-- R99: OPR = 1111. -/
def decodeGroupF (opa : Nibble) : Option Instr :=
  match opa with
  | 0x0#4 => some .clb
  | 0x1#4 => some .clc
  | 0x2#4 => some .iac
  | 0x3#4 => some .cmc
  | 0x4#4 => some .cma
  | 0x5#4 => some .ral
  | 0x6#4 => some .rar
  | 0x7#4 => some .tcc
  | 0x8#4 => some .dac
  | 0x9#4 => some .tcs
  | 0xA#4 => some .stc
  | 0xB#4 => some .daa
  | 0xC#4 => some .kbp
  | 0xD#4 => some .dcl
  | _ => none

/-- R95: the one-word instructions by OPR; none for a first word of a two-word instruction. -/
def decodeOneWord (w1 : Byte) : Option Instr :=
  match w1.high with
  | 0x0#4 => decodeGroup0 w1.low
  | 0x2#4 => if w1[0] then some (.src (pairField w1)) else none
  | 0x3#4 => if w1[0] then some (.jin (pairField w1)) else some (.fin (pairField w1))
  | 0x6#4 => some (.inc w1.low)
  | 0x8#4 => some (.add w1.low)
  | 0x9#4 => some (.sub w1.low)
  | 0xA#4 => some (.ld w1.low)
  | 0xB#4 => some (.xch w1.low)
  | 0xC#4 => some (.bbl w1.low)
  | 0xD#4 => some (.ldm w1.low)
  | 0xE#4 => decodeGroupE w1.low
  | 0xF#4 => decodeGroupF w1.low
  | _ => none

/-- R92, R94, R95: the two-word instructions by OPR; none for a first word of a one-word instruction. -/
def decodeTwoWord (w1 w2 : Byte) : Option Instr :=
  match w1.high with
  | 0x1#4 => some (.jcn w1.low w2)
  | 0x2#4 => if w1[0] then none else some (.fim (pairField w1) w2)
  | 0x4#4 => some (.jun (w1.low ++ w2))
  | 0x5#4 => some (.jms (w1.low ++ w2))
  | 0x7#4 => some (.isz w1.low w2)
  | _ => none

/-- The instruction that begins a list of words, and the words after it (R93: the first word decides the length). -/
def decode : List Byte → Decoded
  | [] => .invalid .noWord
  | w1 :: rest =>
    if isTwoWord w1 then
      match rest with
      | [] => .invalid (.secondWordMissing w1)
      | w2 :: rest' =>
        match decodeTwoWord w1 w2 with
        | some i => .ok i rest'
        | none => .invalid (.unassigned w1)
    else
      match decodeOneWord w1 with
      | some i => .ok i rest
      | none => .invalid (.unassigned w1)

/-- A first word with a 4-bit operand in OPA (R91). -/
def word4 (opr opa : Nibble) : Byte := opr ++ opa

/-- A first word with a pair address in bits 3:1 (R91, R100). -/
def wordPair (opr : Nibble) (p : PairAddr) (bit0 : BitVec 1) : Byte := opr ++ (p ++ bit0 : Nibble)

/-- The words of an instruction, the first at the lower address (R92, R95, R97 to R99). -/
def encode : Instr → List Byte
  | .nop => [0x00#8]
  | .hlt => [0x01#8]
  | .bbs => [0x02#8]
  | .lcr => [0x03#8]
  | .or4 => [0x04#8]
  | .or5 => [0x05#8]
  | .an6 => [0x06#8]
  | .an7 => [0x07#8]
  | .db0 => [0x08#8]
  | .db1 => [0x09#8]
  | .sb0 => [0x0A#8]
  | .sb1 => [0x0B#8]
  | .ein => [0x0C#8]
  | .din => [0x0D#8]
  | .rpm => [0x0E#8]
  | .jcn c a8 => [word4 0x1#4 c, a8]
  | .fim p d8 => [wordPair 0x2#4 p 0#1, d8]
  | .src p => [wordPair 0x2#4 p 1#1]
  | .fin p => [wordPair 0x3#4 p 0#1]
  | .jin p => [wordPair 0x3#4 p 1#1]
  | .jun a12 => [word4 0x4#4 (a12.extractLsb' 8 4), a12.setWidth 8]
  | .jms a12 => [word4 0x5#4 (a12.extractLsb' 8 4), a12.setWidth 8]
  | .inc r => [word4 0x6#4 r]
  | .isz r a8 => [word4 0x7#4 r, a8]
  | .add r => [word4 0x8#4 r]
  | .sub r => [word4 0x9#4 r]
  | .ld r => [word4 0xA#4 r]
  | .xch r => [word4 0xB#4 r]
  | .bbl d => [word4 0xC#4 d]
  | .ldm d => [word4 0xD#4 d]
  | .wrm => [0xE0#8]
  | .wmp => [0xE1#8]
  | .wrr => [0xE2#8]
  | .wpm => [0xE3#8]
  | .wr0 => [0xE4#8]
  | .wr1 => [0xE5#8]
  | .wr2 => [0xE6#8]
  | .wr3 => [0xE7#8]
  | .sbm => [0xE8#8]
  | .rdm => [0xE9#8]
  | .rdr => [0xEA#8]
  | .adm => [0xEB#8]
  | .rd0 => [0xEC#8]
  | .rd1 => [0xED#8]
  | .rd2 => [0xEE#8]
  | .rd3 => [0xEF#8]
  | .clb => [0xF0#8]
  | .clc => [0xF1#8]
  | .iac => [0xF2#8]
  | .cmc => [0xF3#8]
  | .cma => [0xF4#8]
  | .ral => [0xF5#8]
  | .rar => [0xF6#8]
  | .tcc => [0xF7#8]
  | .dac => [0xF8#8]
  | .tcs => [0xF9#8]
  | .stc => [0xFA#8]
  | .daa => [0xFB#8]
  | .kbp => [0xFC#8]
  | .dcl => [0xFD#8]

/-- The first word and the word after it of an instruction given as one number. A one-word row's number is its
word. A two-word row's number is, in the opcode table (INDEX.md, opcode_table.json conventions), the first word in
bits 15:8 and the second in bits 7:0; a number that is no two-word instruction in that order is taken with its
first word in bits 7:0 (log 29). -/
def tableWords (nbits w : Nat) : Byte × Byte :=
  let lower := BitVec.ofNat 8 w
  let upper := BitVec.ofNat 8 (w / 256)
  if nbits ≤ 8 then (lower, 0)
  else if isTwoWord lower && !isTwoWord upper then (lower, upper)
  else (upper, lower)

/-- The instruction the decoder reads from an opcode-table number of `nbits` bits. -/
def decodeTableWord (nbits w : Nat) : Option Instr :=
  let words := tableWords nbits w
  match decode [words.1, words.2] with
  | .ok i _ => some i
  | .invalid _ => none

end Sys2Proof
end

