-- ==== Sys2Proof/Machine/Fetch.lean ====
section
/-! DEFINITION. Fetching an instruction (00_scope.md R12 and the pseudocode `fetch()`). -/
namespace Sys2Proof.Machine

/-- One outcome after another: the second only if the first has a result. -/
def andThen (o : Host.Outcome α Fault Refusal) (f : α → Host.Outcome β Fault Refusal) : Host.Outcome β Fault Refusal :=
  match o with
  | .next a => f a
  | .fault e => .fault e
  | .refused e => .refused e

/-- `fetch()`: a cycle passes, the word at `pc` is read, `pc` is incremented modulo 4096 (R33). -/
def State.fetchWord (s : State) : Host.Outcome (Byte × State) Fault Refusal :=
  let loc := s.tick.programLoc s.tick.pc
  if isPopulated s.plat loc then .next (s.mem.read loc.key, s.tick.setPc (s.tick.pc + 1))
  else .fault (.fetchUnpopulated loc.key)

/-- The words of the next instruction: one, or two when the first selects a two-word instruction (R12, R93). -/
def State.fetchWords (s : State) : Host.Outcome (List Byte × State) Fault Refusal :=
  andThen s.fetchWord fun f1 =>
    if isTwoWord f1.1 then andThen f1.2.fetchWord fun f2 => .next ([f1.1, f2.1], f2.2)
    else .next ([f1.1], f1.2)

/-- The next instruction and the state in which it runs; a word assigned to no instruction has no meaning (R101). -/
def State.fetchInstr (s : State) : Host.Outcome (Instr × State) Fault Refusal :=
  andThen s.fetchWords fun f =>
    match decode f.1 with
    | .ok i _ => .next (i, f.2)
    | .invalid (.unassigned w) => .refused (.unassignedWord w)
    | .invalid (.secondWordMissing w) => .refused (.unassignedWord w)
    | .invalid .noWord => .refused (.unassignedWord 0)

/-- Program words put where the next fetches read them: `w1` where the first fetch reads, `w2` where a second one
would. Both fetches tick first, so a pending ROM bank change may lie between them. -/
def State.placeWords (s : State) (w1 w2 : Byte) : State :=
  let s1 := s.tick.setPc (s.tick.pc + 1)
  let l1 := s.tick.programLoc s.tick.pc
  let l2 := s1.tick.programLoc s1.tick.pc
  { s with mem := (s.mem.write l1.key w1).write l2.key w2 }

/-- The present input sample without the events that would keep the next step from fetching. -/
def quietScript : List Pins → List Pins
  | [] => []
  | p :: ps => { p with resetIn := false, intReq := false, stopCtl := false } :: ps

end Sys2Proof.Machine
end

