-- ==== Sys2Proof/Machine/Cycle.lean ====
section
/-! DEFINITION. The machine step (60_exceptions.md R254). -/
namespace Sys2Proof.Machine

/-- `instruction_step()`: fetch, then the instruction's meaning (00_scope.md R12). -/
def State.instructionStep (s : State) : Result := andThen s.fetchInstr fun f => exec f.1 f.2

/-- `machine_step()` (R254): reset, the halted step, the interrupt, the instruction, in this order. The STOP control
on a running processor has no meaning (R262, 93 U19; log 11). -/
def State.machineStep (s : State) : Result :=
  if s.pins.resetIn then .next s.resetEvent
  else if s.halt then s.haltedStep
  else if s.pins.stopCtl then .refused .stopControlWhileRunning
  else if s.interruptRecognised then s.interruptEntry
  else s.instructionStep

/-- A machine step on the present input sample, which it uses up (R41; log 4). -/
def State.sampledStep (s : State) : Result := andThen s.machineStep fun t => .next t.advance

end Sys2Proof.Machine
end

