-- ==== Sys2Proof/Machine/Step.lean ====
section
/-! DEFINITION. The step of the machine, and placing an instruction where the step fetches. -/
namespace Sys2Proof.Machine

/-- One step (60_exceptions.md R254). -/
def step (s : State) : Host.Outcome State Fault Refusal := s.sampledStep

/-- The state in which the next step fetches and runs the instruction given as an opcode-table number: its words in
program memory at `pc`, the processor not halted, no event in the present input sample. -/
def State.withFetchWord (s : State) (nbits w : Nat) : State :=
  { s.placeWords (tableWords nbits w).1 (tableWords nbits w).2 with
    halt := false
    stop := false
    script := quietScript s.script }

end Sys2Proof.Machine
end

