-- ==== Sys2Proof/Safety.lean ====
section
/-! DEFINITION. The terms that claims use: what counts as a safe step, what a consistent state is, and what it means
that a part of the machine is left alone. -/
namespace Sys2Proof.Machine

/-! ### Safe steps -/

/-- The step has a next state: no fault, no refusal. -/
def StepSafe (s : State) : Prop := ∃ t, step s = .next t

/-- The next `n` steps are all safe. -/
def RunSafe : Nat → State → Prop
  | 0, _ => True
  | n + 1, s => ∃ t, step s = .next t ∧ RunSafe n t

/-- Nothing keeps the step from fetching an instruction (60_exceptions.md R254): no reset, not halted, no STOP
control, no recognised interrupt. -/
abbrev State.runs (s : State) : Prop :=
  s.pins.resetIn = false ∧ s.halt = false ∧ s.pins.stopCtl = false ∧ s.interruptRecognised = false

/-- The two flip-flops agree (R262), and with no bank change pending the activated ROM bank is the designated one
(R35). -/
abbrev State.flipFlopsConsistent (s : State) : Prop := s.halt = s.stop ∧ (s.dbcnt = 0 → s.romb = s.cr3)

/-! ### Registers by name -/

/-- The 24 index registers (10_state.md R23). -/
inductive RegName where
  | bank0 (i : BitVec 3)
  | bank1 (i : BitVec 3)
  | shared (i : BitVec 3)
  deriving DecidableEq, Repr

/-- The content of an index register, whichever bank is selected. -/
def State.reg (s : State) : RegName → Nibble
  | .bank0 i => fileGet s.irb0 i
  | .bank1 i => fileGet s.irb1 i
  | .shared i => fileGet s.irs i

/-- The register that an address RRRR names (R23): 8 to 15 are shared, 0 to 7 belong to the selected bank. -/
def State.regName (s : State) (r : Nibble) : RegName :=
  if 8 ≤ r.toNat then .shared (BitVec.ofNat 3 (r.toNat - 8))
  else if s.rbs then .bank1 (BitVec.ofNat 3 r.toNat)
  else .bank0 (BitVec.ofNat 3 r.toNat)

/-- The register RRR0 of a pair, 2p (00_scope.md R8). -/
def State.evenName (s : State) (p : PairAddr) : RegName := s.regName (BitVec.ofNat 4 (2 * p.toNat))

/-- The register RRR1 of a pair, 2p + 1 (R8). -/
def State.oddName (s : State) (p : PairAddr) : RegName := s.regName (BitVec.ofNat 4 (2 * p.toNat + 1))

/-- The 8 bits of a pair, the even register high (R8). -/
def State.pairValue (s : State) (p : PairAddr) : Byte := s.reg (s.evenName p) ++ s.reg (s.oddName p)

/-- One register of the address stack (R31). -/
def State.stackReg (s : State) (i : BitVec 3) : Addr := s.stk[i.toNat]'i.isLt

/-- The state with the registers of the bank that is not selected replaced. -/
def State.withUnselectedBank (s : State) (f : Vector Nibble 8) : State :=
  { s with irb0 := if s.rbs then f else s.irb0, irb1 := if s.rbs then s.irb1 else f }

/-! ### Instructions and their results -/

/-- These words, and no others, are the instruction's. -/
def EncodedAs (i : Instr) (ws : List Byte) : Prop := encode i = ws ∧ ∀ rest, decode (ws ++ rest) = .ok i rest

/-- The instruction has a next state, and that state is so. -/
def Completes (i : Instr) (s : State) (holds : State → Prop) : Prop := ∃ t, exec i s = .next t ∧ holds t

/-- The program page (PH) of an instruction that ends at `s.pc`, given the address of its last word, by the source's
rule: the page of that word, or the next one if it is word 255 (70_reset_and_hazards.md R289). -/
def nextPage (last : Addr) : Nibble :=
  if last.toNat % 256 = 255 then BitVec.ofNat 4 (last.toNat / 256 + 1) else BitVec.ofNat 4 (last.toNat / 256)

/-- `n` pops of the address stack. -/
def State.pops : Nat → State → State
  | 0, s => s
  | n + 1, s => State.pops n s.pop

/-- The outcome with its next state mapped. -/
def mapNext (f : State → State) : Result → Result
  | .next t => .next (f t)
  | .fault e => .fault e
  | .refused e => .refused e

/-! ### What a step leaves alone -/

/-- The parts of the state. `pc` is the selected register of the address stack, `stack` the selector and the other
seven registers. -/
inductive Part where
  | acc | cy | regs | rbs | rbsSaved | pc | stack | cr | romb | dbcnt | srcr | sel
  | ie | inta | halt | stop | fl | mem | plat | script | draws
  deriving DecidableEq, Repr

/-- A part has the same content in both states. Memory: every byte reads the same. -/
def Unchanged (s t : State) : Part → Prop
  | .acc => t.acc = s.acc
  | .cy => t.cy = s.cy
  | .regs => ∀ q, t.reg q = s.reg q
  | .rbs => t.rbs = s.rbs
  | .rbsSaved => t.rbsSaved = s.rbsSaved
  | .pc => t.pc = s.pc
  | .stack => t.sp = s.sp ∧ ∀ i : Fin 8, i.val ≠ s.sp.toNat → t.stk[i] = s.stk[i]
  | .cr => t.cr = s.cr
  | .romb => t.romb = s.romb
  | .dbcnt => t.dbcnt = s.dbcnt
  | .srcr => t.srcr = s.srcr ∧ t.srcrLoaded = s.srcrLoaded
  | .sel => t.sel = s.sel
  | .ie => t.ie = s.ie
  | .inta => t.inta = s.inta
  | .halt => t.halt = s.halt
  | .stop => t.stop = s.stop
  | .fl => t.fl = s.fl
  | .mem => ∀ k, t.mem.read k = s.mem.read k
  | .plat => t.plat = s.plat
  | .script => t.script = s.script
  | .draws => t.draws = s.draws

/-- Every part but those listed is unchanged. -/
def OnlyChanges (parts : List Part) (s t : State) : Prop := ∀ p, p ∉ parts → Unchanged s t p

/-- Every index register but those listed is unchanged. -/
def RegsUnchangedBut (names : List RegName) (s t : State) : Prop := ∀ q, q ∉ names → t.reg q = s.reg q

/-- Every byte of memory but the one at a location is unchanged. -/
def MemUnchangedBut (l : Loc) (s t : State) : Prop := ∀ k, k ≠ l.key → t.mem.read k = s.mem.read k

/-- The parts of the state that an instruction's entry names as destinations; `pc` and `stack` where it jumps, calls
or returns; the ROM bank delay for the second cycle of FIN (00_scope.md R13). -/
def destinations : Instr → List Part
  | .nop => []
  | .hlt => [.halt, .stop]
  | .bbs => [.pc, .stack, .inta, .rbs, .sel]
  | .ldm _ | .ld _ | .lcr | .or4 | .or5 | .an6 | .an7 | .rdm | .rd0 | .rd1 | .rd2 | .rd3 | .rdr | .cma | .kbp => [.acc]
  | .db0 | .db1 => [.cr, .dbcnt]
  | .sb0 | .sb1 => [.rbs]
  | .ein | .din => [.ie]
  | .rpm => [.acc, .fl]
  | .wpm => [.mem, .fl]
  | .jcn _ _ | .jun _ | .jin _ => [.pc]
  | .jms _ => [.pc, .stack]
  | .bbl _ => [.pc, .stack, .acc]
  | .fim _ _ | .inc _ => [.regs]
  | .isz _ _ => [.regs, .pc]
  | .fin _ => [.regs, .romb, .dbcnt]
  | .src _ => [.srcr, .sel]
  | .xch _ => [.acc, .regs]
  | .add _ | .sub _ | .adm | .sbm | .clb | .iac | .dac | .ral | .rar | .tcc | .tcs | .daa => [.acc, .cy]
  | .clc | .cmc | .stc => [.cy]
  | .wrm | .wr0 | .wr1 | .wr2 | .wr3 | .wmp | .wrr => [.mem]
  | .dcl => [.cr]

/-! ### Which space answers (20_memory.md R72, R83) -/

/-- A region of the fetch map covers a program address of a ROM bank. -/
abbrev Covers (r : FetchRegion) (bank : BitVec 1) (a : Addr) : Prop :=
  r.bank = bank ∧ r.first.toNat ≤ a.toNat ∧ a.toNat ≤ r.last.toNat

/-- The RAM side of the latched address is valid, its fields are these (R64: chip, register, character from the high
end), and the present code selects storage of its own: a code of at most one line does, any code where the platform
decodes the lines (R68, log 16). -/
def RamSelected (s : State) (chip reg : BitVec 2) (ch : Nibble) : Prop :=
  (∃ rb, s.sel = some { addr := chip ++ reg ++ ch, cm := s.cm, rb := rb }) ∧
    (s.plat.ramCodesDecoded = true ∨ s.cm ∈ [0b000#3, 0b001#3, 0b010#3, 0b100#3])

/-- The ROM side of the latched address is valid and this is the address. -/
def RomSelected (s : State) (addr : Byte) : Prop :=
  ∃ cm, s.sel = some { addr := addr, cm := cm, rb := s.romb }

/-- The selected program RAM word exists on a platform with a 4289 (R72). -/
def PramSelected (s : State) (addr : Byte) : Prop :=
  RomSelected s addr ∧ s.plat.with4289 = true ∧ isPopulated s.plat (.pram s.extraLines addr) = true

end Sys2Proof.Machine
end

