-- ==== Sys2Proof/Certificates/Slice0/Obligations.lean ====
section
/-! DEFINITION. The statements for the provers. In a statement about an instruction's meaning, `s` is the state after
the instruction's fetch, so `s.pc` is the address of the next instruction (00_scope.md R12). -/
section
open Sys2Proof Sys2Proof.Machine

/-! ### Encoding -/

/-- The three tables of fixed codes, row by row (30_encoding.md R97, R98, R99). -/
def Obligations.FixedCodesDecodeAsTabulated : Prop :=
  (List.range 16).map (fun k => decode [BitVec.ofNat 8 k]) =
      ([.nop, .hlt, .bbs, .lcr, .or4, .or5, .an6, .an7, .db0, .db1, .sb0, .sb1, .ein, .din, .rpm] : List Instr).map
          (fun i => Decoded.ok i []) ++ [.invalid (.unassigned 0x0F)] ∧
    (List.range 16).map (fun k => decode [BitVec.ofNat 8 (0xE0 + k)]) =
      ([.wrm, .wmp, .wrr, .wpm, .wr0, .wr1, .wr2, .wr3, .sbm, .rdm, .rdr, .adm, .rd0, .rd1, .rd2, .rd3] :
          List Instr).map (fun i => Decoded.ok i []) ∧
    (List.range 16).map (fun k => decode [BitVec.ofNat 8 (0xF0 + k)]) =
      ([.clb, .clc, .iac, .cmc, .cma, .ral, .rar, .tcc, .dac, .tcs, .stc, .daa, .kbp, .dcl] : List Instr).map
          (fun i => Decoded.ok i []) ++ [.invalid (.unassigned 0xFE), .invalid (.unassigned 0xFF)]

/-- Words of the instructions with operands, from the examples of the spec. -/
def Obligations.ExampleWordsDecode : Prop :=
  decode [0x16, 0x40] = .ok (.jcn 0b0110 0x40) [] ∧ decode [0x24, 0x6B] = .ok (.fim 2 0x6B) [] ∧
    decode [0x23] = .ok (.src 1) [] ∧ decode [0x36] = .ok (.fin 3) [] ∧ decode [0x35] = .ok (.jin 2) [] ∧
    decode [0x43, 0x21] = .ok (.jun 0x321) [] ∧ decode [0x52, 0x05] = .ok (.jms 0x205) [] ∧
    decode [0x65] = .ok (.inc 5) [] ∧ decode [0x7A, 0x04] = .ok (.isz 10 0x04) [] ∧
    decode [0x82] = .ok (.add 2) [] ∧ decode [0x91] = .ok (.sub 1) [] ∧ decode [0xA3] = .ok (.ld 3) [] ∧
    decode [0xB0] = .ok (.xch 0) [] ∧ decode [0xC3] = .ok (.bbl 3) [] ∧ decode [0xD9] = .ok (.ldm 9) []

/-- Decoding the words of any instruction gives it back and leaves the words after it. -/
def Obligations.DecodeOfEncode : Prop :=
  ∀ (i : Instr) (rest : List Byte), decode (encode i ++ rest) = .ok i rest

/-- Words that decode are the words of the instruction they decode to: no instruction has two encodings. -/
def Obligations.EncodeOfDecode : Prop :=
  ∀ (ws rest : List Byte) (i : Instr), decode ws = .ok i rest → ws = encode i ++ rest

/-- The first word decides the length: first words 0x10 to 0x1F, even 0x20 to 0x2E, 0x40 to 0x5F and 0x70 to 0x7F
take a second word, any 8-bit value; every other assigned first word is complete. -/
def Obligations.FirstWordDecidesLength : Prop :=
  ∀ (w1 w2 : Byte) (rest : List Byte),
    if 0x10 ≤ w1.toNat ∧ w1.toNat < 0x20 ∨ 0x20 ≤ w1.toNat ∧ w1.toNat < 0x30 ∧ w1.toNat % 2 = 0 ∨
        0x40 ≤ w1.toNat ∧ w1.toNat < 0x60 ∨ 0x70 ≤ w1.toNat ∧ w1.toNat < 0x80 then
      (∃ i, decode (w1 :: w2 :: rest) = .ok i rest) ∧ decode [w1] = .invalid (.secondWordMissing w1)
    else w1 ∉ [0x0F#8, 0xFE#8, 0xFF#8] → ∃ i, decode (w1 :: rest) = .ok i rest

/-- The first words 0x0F, 0xFE and 0xFF, and no others, are assigned to no instruction, whatever follows. -/
def Obligations.UnassignedFirstWords : Prop :=
  ∀ (w1 w2 : Byte) (rest : List Byte),
    decode (w1 :: w2 :: rest) = .invalid (.unassigned w1) ↔ w1 = 0x0F ∨ w1 = 0xFE ∨ w1 = 0xFF

/-! ### The step -/

/-- When nothing keeps the step from fetching and the words at the program counter decode to an instruction, the
step is that instruction's meaning in the fetched state (one cycle has passed for each word, the program counter is
past the words), and then the input sample is used up. Each word is read in the ROM bank activated in its own
cycle. That a cycle passes for each word, that the bank changes by the count of cycles, and that each read uses the
bank of its moment are the spec's own choices (92 D13, D14, D15; logs 20, 24, 31). -/
def Obligations.StepRunsDecodedInstruction : Prop :=
  ∀ (s : State) (i : Instr) (w1 w2 : Byte), s.runs →
    isPopulated s.plat (s.tick.programLoc s.pc) = true → s.mem.read (s.tick.programLoc s.pc).key = w1 →
    (decode [w1] = .ok i [] →
      step s = andThen (exec i (s.tick.setPc (s.pc + 1))) fun t => .next t.advance) ∧
    (isPopulated s.plat (s.tick.tick.programLoc (s.pc + 1)) = true →
      s.mem.read (s.tick.tick.programLoc (s.pc + 1)).key = w2 → decode [w1, w2] = .ok i [] →
      step s = andThen (exec i (s.tick.tick.setPc (s.pc + 2))) fun t => .next t.advance)

/-- Where the step stops before any instruction runs: a word assigned to nothing is refused (93 U2; log 21), an
unpopulated first or second word faults (93 U5; logs 17, 35), the STOP control on a running processor is refused
(93 U19; log 11). -/
def Obligations.StepsWithoutMeaningStop : Prop :=
  (∀ s w, s.runs → isPopulated s.plat (s.tick.programLoc s.pc) = true →
      s.mem.read (s.tick.programLoc s.pc).key = w → w ∈ [0x0F#8, 0xFE#8, 0xFF#8] →
      step s = .refused (.unassignedWord w)) ∧
    (∀ s, s.runs → isPopulated s.plat (s.tick.programLoc s.pc) = false →
      step s = .fault (.fetchUnpopulated (s.tick.programLoc s.pc).key)) ∧
    (∀ s, s.runs → isPopulated s.plat (s.tick.programLoc s.pc) = true →
      isTwoWord (s.mem.read (s.tick.programLoc s.pc).key) = true →
      isPopulated s.plat (s.tick.tick.programLoc (s.pc + 1)) = false →
      step s = .fault (.fetchUnpopulated (s.tick.tick.programLoc (s.pc + 1)).key)) ∧
    ∀ s : State, s.pins.resetIn = false → s.halt = false → s.pins.stopCtl = true →
      step s = .refused .stopControlWhileRunning

/-- The four reset values the source fixes hold after power-on and after a reset of a running system. That a reset of
a running system is an event that wins over every other is the spec's choice (92 D33, D34; log 27). -/
def Obligations.ResetFixesFourValues : Prop :=
  (State.reset.cr = 0b0000 ∧ State.reset.romb = 0 ∧ State.reset.rbs = false ∧ State.reset.fl = .first) ∧
    ∀ s : State, s.pins.resetIn = true →
      ∃ t, step s = .next t ∧ t.cr = 0b0000 ∧ t.romb = 0 ∧ t.rbs = false ∧ t.fl = .first

/-- A reset of a running system wins over everything else, gives the values the spec decides (92 D5, D33; logs 6, 7,
27) and leaves memory, port latches and the platform alone. The model's choice, not the source's. -/
def Obligations.ResetEventKeepsMemory : Prop :=
  ∀ s : State, s.pins.resetIn = true →
    ∃ t, step s = .next t ∧ t.pc = s.plat.resetPC ∧ t.sp = 0 ∧ t.dbcnt = 0 ∧ t.inta = false ∧ t.halt = false ∧
      t.stop = false ∧ t.sel = none ∧ t.srcrLoaded = false ∧ t.ie = s.plat.resetIE ∧
      Unchanged s t .mem ∧ Unchanged s t .plat

/-! ### Invariants of every step -/

/-- The state after reset has its memory in canonical form (the model's representation, log 28) and its flip-flops
consistent, by reset values that the spec decides (92 D5; log 7). -/
def Obligations.ResetIsConsistent : Prop := State.reset.mem.wf ∧ State.reset.flipFlopsConsistent

/-- Every step keeps the canonical form of memory: keys rising, none listed in vain, characters of 4 bits. The
form is the model's representation of memory (logs 2, 28). -/
def Obligations.StepKeepsMemoryCanonical : Prop :=
  ∀ s t, s.mem.wf → step s = .next t → t.mem.wf

/-- Every step keeps HALT and STOP equal, and with no bank change pending the activated ROM bank the designated
one. That HALT and STOP never differ is the spec's decision (60_exceptions.md R262, 92 D11; log 10), and so is the
counted delay with which the activated bank follows `CR[3]` (92 D13; log 20). -/
def Obligations.StepKeepsFlipFlopsConsistent : Prop :=
  ∀ s t, s.flipFlopsConsistent → step s = .next t → t.flipFlopsConsistent

/-- No step writes the ROM image (the spec's choice, 92 D36) or the platform (the model's, log 5). -/
def Obligations.StepNeverWritesRom : Prop :=
  ∀ s t, s.mem.wf → step s = .next t →
    t.plat = s.plat ∧ ∀ bank a, t.mem.read (Loc.rom bank a).key = s.mem.read (Loc.rom bank a).key

/-- The registers of the bank not selected are neither read nor written by any instruction but the three that can
change the selection. That OR4, OR5, AN6, AN7 (the registers they name) and FIN (pair 0) read through the selection
too is the spec's decision (92 D25; log 30). -/
def Obligations.UnselectedBankIsInvisible : Prop :=
  ∀ (i : Instr) (s : State) (f : Vector Nibble 8), i ≠ .sb0 → i ≠ .sb1 → i ≠ .bbs →
    exec i (s.withUnselectedBank f) = mapNext (fun t => t.withUnselectedBank f) (exec i s)

/-- IE is changed only by reset, EIN (to 1) and DIN (to 0). That interrupt entry leaves IE alone, which the source does
not say, is the spec's own choice (92 D8; log 9), as is the reading that what an entry does not name is unchanged
(92 D1; log 25). The value that reset gives is an open parameter (log 7). -/
def Obligations.OnlyEinDinAndResetWriteIe : Prop :=
  ∀ s t, step s = .next t → t.ie ≠ s.ie →
    s.pins.resetIn = true ∨ s.runs ∧ ∃ i f, s.fetchInstr = .next (i, f) ∧
      (i = .ein ∧ t.ie = true ∨ i = .din ∧ t.ie = false)

/-- INTA goes off only by reset and BBS, and on only by interrupt entry. Which events set and clear it, and when a
request is recognised, are the spec's own choices (92 D7, D8; log 9), as is its reset value 0 (92 D5; log 7). -/
def Obligations.OnlyBbsAndResetClearInta : Prop :=
  ∀ s t, step s = .next t →
    (s.inta = true → t.inta = false →
      s.pins.resetIn = true ∨ s.runs ∧ ∃ f, s.fetchInstr = .next (.bbs, f)) ∧
    (s.inta = false → t.inta = true → s.interruptRecognised = true)

/-- `CR[3]` is changed only by reset, DB0 and DB1, `CR[2:0]` only by reset and DCL. That interrupt entry leaves `CR`
alone is the spec's own choice (92 D8; log 9), as is the reading that what an entry does not name is unchanged (92 D1;
log 25). -/
def Obligations.CommandRegisterWriters : Prop :=
  ∀ s t, step s = .next t →
    (t.cr3 ≠ s.cr3 → s.pins.resetIn = true ∨ s.runs ∧ ∃ i f, s.fetchInstr = .next (i, f) ∧
      (i = .db0 ∧ t.cr3 = 0 ∨ i = .db1 ∧ t.cr3 = 1)) ∧
    (t.cm ≠ s.cm → s.pins.resetIn = true ∨ s.runs ∧ ∃ f, s.fetchInstr = .next (.dcl, f))

/-- No two tagged addresses share a byte. The bytes they have are the model's representation (log 28). -/
def Obligations.TaggedAddressesDoNotOverlap : Prop := ∀ l l' : Loc, l.key = l'.key → l = l'

/-! ### Interrupt and halt -/

/-- Interrupt entry, from a running or a halted processor: the forced JMS to INT_VECTOR with the return address in the
register that was the program counter, INTA on, the register bank remembered, HALT and STOP off, nothing else but the
passing of a halted cycle (92 D7, D8, D10, D13; logs 8, 9, 10, 20). A masked request is not recognised; with a ROM bank change pending
entry is refused (93 U6; log 20). -/
def Obligations.InterruptEntry : Prop :=
  (∀ s : State, s.interruptRecognised = (s.pins.intReq && s.ie && !s.inta)) ∧
    ∀ s : State, s.pins.resetIn = false → s.interruptRecognised = true →
      (s.halt = true ∨ s.pins.stopCtl = false) →
      if (if s.halt then s.tick.dbcnt else s.dbcnt) = 0 then
        ∃ t, step s = .next t ∧ t.pc = s.plat.intVector ∧ t.sp = s.sp + 1 ∧ t.stackReg s.sp = s.pc ∧
          (∀ j, j ≠ s.sp + 1 → t.stackReg j = s.stackReg j) ∧ t.inta = true ∧ t.rbsSaved = s.rbs ∧
          t.halt = false ∧ t.stop = false ∧ (s.halt = false → t.romb = s.romb ∧ t.dbcnt = s.dbcnt) ∧
          (s.halt = true → t.dbcnt = 0 ∧ t.romb = (if s.dbcnt = 1 then s.cr3 else s.romb)) ∧
          OnlyChanges [.pc, .stack, .inta, .rbsSaved, .halt, .stop, .romb, .dbcnt, .script, .draws] s t
      else step s = .refused .interruptDuringBankChange

/-- A halted processor with no recognised request: the STOP control clears HALT and STOP; a masked request does what
the open parameter says (log 10); otherwise it stays halted. A cycle passes in each case, nothing else changes. The
spec's choices (92 D10, D11, D13, D34; logs 10, 20, 27). -/
def Obligations.HaltedStep : Prop :=
  ∀ s : State, s.pins.resetIn = false → s.halt = true → s.interruptRecognised = false →
    ∃ t, step s = .next t ∧ t.dbcnt.toNat = s.dbcnt.toNat - 1 ∧
      t.romb = (if s.dbcnt = 1 then s.cr3 else s.romb) ∧
      OnlyChanges [.halt, .stop, .romb, .dbcnt, .script, .draws] s t ∧
      (if s.pins.stopCtl = true ∨ s.pins.intReq = true ∧ s.plat.haltWakeWhenMasked = .resume then
        t.halt = false ∧ t.stop = false
      else t.halt = true ∧ t.stop = s.stop)

/-- BBS returns from the interrupt: run in any state that has the selector, the remembered bank and the return address
as interrupt entry left them, it gives back the interrupted program counter, selector and register bank and turns INTA
off (92 D8; log 9). -/
def Obligations.BbsReturnsFromInterrupt : Prop :=
  ∀ s e h : State, s.interruptEntry = .next e → h.sp = e.sp → h.rbsSaved = e.rbsSaved →
    h.stackReg s.sp = e.stackReg s.sp →
    Completes .bbs h fun t => t.pc = s.pc ∧ t.sp = s.sp ∧ t.rbs = s.rbs ∧ t.inta = false

/-- The address stack holds seven return addresses: up to seven calls return in order, the eighth overwrites the
oldest, so the eighth return goes to the target of the newest call (92 D4; log 23). -/
def Obligations.AddressStackHoldsSeven : Prop :=
  ∀ (s : State) (targets : List Addr),
    (targets.length ≤ 7 →
      (State.pops targets.length (targets.foldl State.push s)).pc = s.pc ∧
        (State.pops targets.length (targets.foldl State.push s)).sp = s.sp) ∧
    ∀ newest, targets.length = 7 → (State.pops 8 ((targets ++ [newest]).foldl State.push s)).pc = newest

/-! ### NOP and the loads, INC, the arithmetic -/

/-- NOP changes nothing, so that a step at its word only passes a cycle, advances the program counter by 1 and uses up
the input sample; LDM loads its data, LD the register, into the accumulator; the carry and the registers are
unaffected. -/
def Obligations.NopLdmLd : Prop :=
  (EncodedAs .nop [0x00] ∧ (∀ s, exec .nop s = .next s) ∧
      ∀ s : State, s.runs → isPopulated s.plat (s.tick.programLoc s.pc) = true →
        s.mem.read (s.tick.programLoc s.pc).key = 0x00 → step s = .next (s.tick.setPc (s.pc + 1)).advance) ∧
    (∀ d : Nibble, EncodedAs (.ldm d) [BitVec.ofNat 8 (0xD0 + d.toNat)] ∧
      ∀ s, Completes (.ldm d) s fun t => t.acc = d ∧ t.cy = s.cy) ∧
    ∀ r : Nibble, EncodedAs (.ld r) [BitVec.ofNat 8 (0xA0 + r.toNat)] ∧
      ∀ s, Completes (.ld r) s fun t => t.acc = s.reg (s.regName r) ∧ (∀ q, t.reg q = s.reg q) ∧ t.cy = s.cy

/-- XCH swaps the accumulator and the register. -/
def Obligations.XchSwaps : Prop :=
  ∀ r : Nibble, EncodedAs (.xch r) [BitVec.ofNat 8 (0xB0 + r.toNat)] ∧
    ∀ s, Completes (.xch r) s fun t => t.acc = s.reg (s.regName r) ∧ t.reg (s.regName r) = s.acc ∧ t.cy = s.cy

/-- ADD: the sum with carry, modulo 16; the carry is 1 exactly if the sum is greater than 15. -/
def Obligations.AddComputesSum : Prop :=
  ∀ r : Nibble, EncodedAs (.add r) [BitVec.ofNat 8 (0x80 + r.toNat)] ∧
    ∀ s, Completes (.add r) s fun t =>
      t.acc.toNat = ((s.reg (s.regName r)).toNat + s.acc.toNat + s.cy.toNat) % 16 ∧
        (t.cy = true ↔ 15 < (s.reg (s.regName r)).toNat + s.acc.toNat + s.cy.toNat) ∧
        t.reg (s.regName r) = s.reg (s.regName r)

/-- SUB: the register's complement is added; the carry out is 1 exactly if there is no borrow. The carry goes in
complemented or not as the platform's parameter says (92 D3; log 12): complemented, the result is ACC - x[r] - CY. -/
def Obligations.SubSubtractsWithBorrow : Prop :=
  ∀ r : Nibble, EncodedAs (.sub r) [BitVec.ofNat 8 (0x90 + r.toNat)] ∧
    ∀ s, Completes (.sub r) s fun t =>
      (s.plat.subCarryInComplemented = true →
        (t.acc.toNat : Int) = ((s.acc.toNat : Int) - (s.reg (s.regName r)).toNat - s.cy.toNat) % 16 ∧
          (t.cy = true ↔ (s.reg (s.regName r)).toNat + s.cy.toNat ≤ s.acc.toNat)) ∧
      (s.plat.subCarryInComplemented = false →
        t.acc.toNat = (s.acc.toNat + (15 - (s.reg (s.regName r)).toNat) + s.cy.toNat) % 16 ∧
          (t.cy = true ↔ 15 < s.acc.toNat + (15 - (s.reg (s.regName r)).toNat) + s.cy.toNat)) ∧
      t.reg (s.regName r) = s.reg (s.regName r)

/-- INC adds 1 to the register, 15 becoming 0, and leaves the carry and the accumulator alone. -/
def Obligations.IncIncrements : Prop :=
  ∀ r : Nibble, EncodedAs (.inc r) [BitVec.ofNat 8 (0x60 + r.toNat)] ∧
    ∀ s, Completes (.inc r) s fun t =>
      (t.reg (s.regName r)).toNat = (if (s.reg (s.regName r)).toNat = 15 then 0
        else (s.reg (s.regName r)).toNat + 1) ∧ t.cy = s.cy ∧ t.acc = s.acc

/-! ### Jumps, calls, pairs -/

/-- JUN goes to its 12-bit address; JIN to the pair's address in the page of the instruction, or in the next page if
the instruction is at word 255, page 0 after page 15, in the same ROM bank (92 D2, D15; log 24). `last` is the address
of the JIN. -/
def Obligations.JunAndJin : Prop :=
  (∀ a12 : Addr, EncodedAs (.jun a12) [BitVec.ofNat 8 (0x40 + a12.toNat / 256), BitVec.ofNat 8 (a12.toNat % 256)] ∧
      ∀ s, Completes (.jun a12) s fun t => t.pc = a12 ∧ Unchanged s t .stack ∧ t.romb = s.romb ∧ t.cy = s.cy) ∧
    ∀ p : PairAddr, EncodedAs (.jin p) [BitVec.ofNat 8 (0x31 + 2 * p.toNat)] ∧
      ∀ (s : State) (last : Addr), s.pc = last + 1 →
        Completes (.jin p) s fun t =>
          t.pc = nextPage last ++ s.reg (s.evenName p) ++ s.reg (s.oddName p) ∧ t.romb = s.romb ∧
            t.cy = s.cy ∧ ∀ q, t.reg q = s.reg q

/-- JMS leaves the return address in the register that was the program counter and selects the next one; BBL goes back
one register and loads the accumulator. The ring of eight is the spec's extension (92 D4; log 23). -/
def Obligations.JmsAndBbl : Prop :=
  (∀ a12 : Addr, EncodedAs (.jms a12) [BitVec.ofNat 8 (0x50 + a12.toNat / 256), BitVec.ofNat 8 (a12.toNat % 256)] ∧
      ∀ s, Completes (.jms a12) s fun t =>
        t.pc = a12 ∧ t.sp.toNat = (s.sp.toNat + 1) % 8 ∧ t.stackReg s.sp = s.pc ∧
          ∀ j, j ≠ s.sp + 1 → t.stackReg j = s.stackReg j) ∧
    ∀ d : Nibble, EncodedAs (.bbl d) [BitVec.ofNat 8 (0xC0 + d.toNat)] ∧
      ∀ s, Completes (.bbl d) s fun t =>
        t.acc = d ∧ t.sp.toNat = (s.sp.toNat + 7) % 8 ∧ t.pc = s.stackReg (s.sp - 1) ∧
          ∀ j, t.stackReg j = s.stackReg j

/-- SRC sends the pair to the chips, tagged with the bank lines, and to SRCR, which during an interrupt routine
depends on the open parameter (92 D9, D16; logs 13, 14). -/
def Obligations.SrcLatchesPair : Prop :=
  ∀ p : PairAddr, EncodedAs (.src p) [BitVec.ofNat 8 (0x21 + 2 * p.toNat)] ∧
    ∀ s, Completes (.src p) s fun t =>
      t.sel = some { addr := s.pairValue p, cm := s.cm, rb := s.romb } ∧
        (if s.inta = false ∨ s.plat.srcrLoadsDuringInta = true then t.srcr = s.pairValue p ∧ t.srcrLoaded = true
          else Unchanged s t .srcr) ∧ ∀ q, t.reg q = s.reg q

/-- FIN: after a second cycle, the word in the page of the instruction (the next page from word 255, page 0 after page
15) at the address in pair 0 goes to the pair; pair 0 keeps its content unless it is the destination (92 D2, D13, D15,
D20, D25; logs 18, 20, 24, 30, 34, 35). At an unpopulated address the value is left open and FIN completes all the
same, which is the model's choice among the spec's treatments, the first of which is to refuse (93 U5; log 17). -/
def Obligations.FinFetchesIndirect : Prop :=
  ∀ p : PairAddr, EncodedAs (.fin p) [BitVec.ofNat 8 (0x30 + 2 * p.toNat)] ∧
    ∀ (s : State) (last : Addr), s.pc = last + 1 →
      Completes (.fin p) s fun t =>
        (isPopulated s.plat (s.tick.programLoc (nextPage last ++ s.pairValue 0)) = true →
          t.pairValue p = s.mem.read (s.tick.programLoc (nextPage last ++ s.pairValue 0)).key) ∧
        RegsUnchangedBut [s.evenName p, s.oddName p] s t ∧ t.pc = s.pc ∧ t.dbcnt.toNat = s.dbcnt.toNat - 1 ∧
        t.romb = (if s.dbcnt = 1 then s.cr3 else s.romb)

/-- FIM loads D2 into the even and D1 into the odd register of the pair. -/
def Obligations.FimLoadsPair : Prop :=
  ∀ (p : PairAddr) (d8 : Byte), EncodedAs (.fim p d8) [BitVec.ofNat 8 (0x20 + 2 * p.toNat), d8] ∧
    ∀ s, Completes (.fim p d8) s fun t =>
      (t.reg (s.evenName p)).toNat = d8.toNat / 16 ∧ (t.reg (s.oddName p)).toNat = d8.toNat % 16 ∧ t.acc = s.acc ∧
        t.cy = s.cy

/-- The condition table of JCN, complete: `z` is ACC = 0. -/
def Obligations.JcnConditionTable : Prop :=
  ∀ (acc : Nibble) (cy test : Bool), let z := decide (acc.toNat = 0)
    jumps 0b0000 acc cy test = false ∧
    jumps 0b0001 acc cy test = !test ∧
    jumps 0b0010 acc cy test = cy ∧
    jumps 0b0011 acc cy test = (!test || cy) ∧
    jumps 0b0100 acc cy test = z ∧
    jumps 0b0101 acc cy test = (!test || z) ∧
    jumps 0b0110 acc cy test = (cy || z) ∧
    jumps 0b0111 acc cy test = (!test || cy || z) ∧
    jumps 0b1000 acc cy test = true ∧
    jumps 0b1001 acc cy test = test ∧
    jumps 0b1010 acc cy test = !cy ∧
    jumps 0b1011 acc cy test = (test && !cy) ∧
    jumps 0b1100 acc cy test = !z ∧
    jumps 0b1101 acc cy test = (test && !z) ∧
    jumps 0b1110 acc cy test = (!cy && !z) ∧
    jumps 0b1111 acc cy test = (test && !cy && !z)

/-- JCN goes to its address in the page of the instruction, or in the next page if the instruction's last word is word
255, when its condition holds, and on otherwise (92 D2, D30; logs 24, 26). `last` is the address of the second word. -/
def Obligations.JcnJumpsInPage : Prop :=
  ∀ (c : Nibble) (a8 : Byte), EncodedAs (.jcn c a8) [BitVec.ofNat 8 (0x10 + c.toNat), a8] ∧
    ∀ (s : State) (last : Addr), s.pc = last + 1 →
      Completes (.jcn c a8) s fun t =>
        t.pc = (if jumps c s.acc s.cy s.pins.test then nextPage last ++ a8 else last + 1) ∧ Unchanged s t .stack ∧
          t.acc = s.acc ∧ t.cy = s.cy

/-- ISZ increments the register and goes to its address in the page, as JCN does, when the result is not 0; it goes on
when the result is 0 (92 D2, D30; logs 24, 26). `last` is the address of the second word. -/
def Obligations.IszLoops : Prop :=
  ∀ (r : Nibble) (a8 : Byte), EncodedAs (.isz r a8) [BitVec.ofNat 8 (0x70 + r.toNat), a8] ∧
    ∀ (s : State) (last : Addr), s.pc = last + 1 →
      Completes (.isz r a8) s fun t =>
        (t.reg (s.regName r)).toNat = ((s.reg (s.regName r)).toNat + 1) % 16 ∧
          t.pc = (if (s.reg (s.regName r)).toNat = 15 then last + 1 else nextPage last ++ a8) ∧
          Unchanged s t .stack ∧ t.acc = s.acc ∧ t.cy = s.cy

/-! ### The instructions of the 4040 -/

/-- HLT sets HALT and STOP; EIN and DIN write IE; LCR reads the whole command register. What they leave alone is the
spec's reading (92 D1; log 25). -/
def Obligations.HltEinDinLcr : Prop :=
  (EncodedAs .hlt [0x01] ∧
      ∀ s, Completes .hlt s fun t => t.halt = true ∧ t.stop = true ∧ OnlyChanges [.halt, .stop] s t) ∧
    (EncodedAs .ein [0x0C] ∧ ∀ s, Completes .ein s fun t => t.ie = true ∧ OnlyChanges [.ie] s t) ∧
    (EncodedAs .din [0x0D] ∧ ∀ s, Completes .din s fun t => t.ie = false ∧ OnlyChanges [.ie] s t) ∧
    EncodedAs .lcr [0x03] ∧ ∀ s, Completes .lcr s fun t => t.acc = s.cr ∧ OnlyChanges [.acc] s t

/-- BBS in any state, in or out of an interrupt routine: pop, INTA off, the register bank back, SRCR sent out again
with the present tags, or no selection if no SRC has loaded SRCR (92 D29; log 33). -/
def Obligations.BbsEffects : Prop :=
  EncodedAs .bbs [0x02] ∧
    ∀ s, Completes .bbs s fun t =>
      t.pc = s.stackReg (s.sp - 1) ∧ t.sp.toNat = (s.sp.toNat + 7) % 8 ∧ (∀ j, t.stackReg j = s.stackReg j) ∧
        t.inta = false ∧ t.rbs = s.rbsSaved ∧
        t.sel = (if s.srcrLoaded then some { addr := s.srcr, cm := s.cm, rb := s.romb } else none) ∧
        t.acc = s.acc ∧ t.cy = s.cy ∧ t.ie = s.ie ∧ t.cr = s.cr

/-- OR4, OR5, AN6 and AN7: bit by bit with the register of the implied address; register and carry are unchanged. That
the implied address goes through the bank selection is the spec's reading (92 D25; log 30). -/
def Obligations.LogicWithImpliedRegister : Prop :=
  (EncodedAs .or4 [0x04] ∧ EncodedAs .or5 [0x05] ∧ EncodedAs .an6 [0x06] ∧ EncodedAs .an7 [0x07]) ∧ ∀ s : State,
    (Completes .or4 s fun t => (∀ k, t.acc.getLsbD k = (s.acc.getLsbD k || (s.reg (s.regName 4)).getLsbD k)) ∧
      t.cy = s.cy ∧ t.reg (s.regName 4) = s.reg (s.regName 4)) ∧
    (Completes .or5 s fun t => (∀ k, t.acc.getLsbD k = (s.acc.getLsbD k || (s.reg (s.regName 5)).getLsbD k)) ∧
      t.cy = s.cy ∧ t.reg (s.regName 5) = s.reg (s.regName 5)) ∧
    (Completes .an6 s fun t => (∀ k, t.acc.getLsbD k = (s.acc.getLsbD k && (s.reg (s.regName 6)).getLsbD k)) ∧
      t.cy = s.cy ∧ t.reg (s.regName 6) = s.reg (s.regName 6)) ∧
    Completes .an7 s fun t => (∀ k, t.acc.getLsbD k = (s.acc.getLsbD k && (s.reg (s.regName 7)).getLsbD k)) ∧
      t.cy = s.cy ∧ t.reg (s.regName 7) = s.reg (s.regName 7)

/-- DB0 and DB1 with no change pending: `CR[3]` changes at once, the activated bank not yet. With a change pending
they are refused (93 U6; log 20). -/
def Obligations.Db0AndDb1DesignateBank : Prop :=
  (EncodedAs .db0 [0x08] ∧ EncodedAs .db1 [0x09]) ∧ ∀ s : State,
    if s.dbcnt = 0 then
      (Completes .db0 s fun t => t.cr3 = 0 ∧ t.cm = s.cm ∧ t.dbcnt = 3 ∧ OnlyChanges [.cr, .dbcnt] s t) ∧
        Completes .db1 s fun t => t.cr3 = 1 ∧ t.cm = s.cm ∧ t.dbcnt = 3 ∧ OnlyChanges [.cr, .dbcnt] s t
    else exec .db0 s = .refused .bankChangePending ∧ exec .db1 s = .refused .bankChangePending

/-- The two cycles after DB0 or DB1 still use the old bank; the third is the first to use the new one (92 D13;
log 20). -/
def Obligations.BankChangeInThirdCycle : Prop :=
  ∀ s t : State, (exec .db0 s = .next t ∨ exec .db1 s = .next t) →
    t.tick.romb = s.romb ∧ t.tick.tick.romb = s.romb ∧ t.tick.tick.tick.romb = t.cr3 ∧
      t.tick.tick.tick.dbcnt = 0

/-- SB0 and SB1 select the register bank; addresses 0 to 7 then name its registers, 8 to 15 the shared ones, and all
24 registers keep their contents. -/
def Obligations.Sb0AndSb1SelectBank : Prop :=
  (EncodedAs .sb0 [0x0A] ∧ EncodedAs .sb1 [0x0B]) ∧ ∀ s : State,
    (Completes .sb0 s fun t => t.rbs = false ∧ t.cy = s.cy ∧ (∀ q, t.reg q = s.reg q) ∧
      (∀ k < 8, t.x (BitVec.ofNat 4 k) = s.reg (.bank0 (BitVec.ofNat 3 k))) ∧
      ∀ k < 8, t.x (BitVec.ofNat 4 (8 + k)) = s.reg (.shared (BitVec.ofNat 3 k))) ∧
    Completes .sb1 s fun t => t.rbs = true ∧ t.cy = s.cy ∧ (∀ q, t.reg q = s.reg q) ∧
      (∀ k < 8, t.x (BitVec.ofNat 4 k) = s.reg (.bank1 (BitVec.ofNat 3 k))) ∧
      ∀ k < 8, t.x (BitVec.ofNat 4 (8 + k)) = s.reg (.shared (BitVec.ofNat 3 k))

/-- WPM writes and RPM reads the half of the selected program RAM word that F/L names, and toggles F/L; two WPM with
the same selection write a whole word, the first half first (92 D20; log 18). -/
def Obligations.WpmAndRpmMoveHalves : Prop :=
  (EncodedAs .wpm [0xE3] ∧ EncodedAs .rpm [0x0E]) ∧ ∀ (s : State) (addr : Byte), PramSelected s addr →
    let word := fun u : State => u.mem.read (Loc.pram s.extraLines addr).key
    let high := if s.plat.pramFirstIsHigh then s.fl = .first else s.fl = .last
    (Completes .rpm s fun t =>
      t.acc.toNat = (if high then (word s).toNat / 16 else (word s).toNat % 16) ∧ t.fl ≠ s.fl ∧ t.cy = s.cy) ∧
    (s.mem.wf → Completes .wpm s fun t =>
      (word t).toNat = (if high then 16 * s.acc.toNat + (word s).toNat % 16
        else 16 * ((word s).toNat / 16) + s.acc.toNat) ∧ t.fl ≠ s.fl ∧ t.acc = s.acc) ∧
    (s.mem.wf → ∀ (t u : State) (v : Nibble), exec .wpm s = .next t → exec .wpm { t with acc := v } = .next u →
      word u = (if high then s.acc ++ v else v ++ s.acc) ∧ u.fl = s.fl)

/-! ### Input, output and RAM -/

/-- RDM and RD0 to RD3 with a valid RAM selection of a populated chip: the accumulator gets the main memory character,
or the status character of the selected register whatever the character address; carry and character are
unaffected. -/
def Obligations.RamReads : Prop :=
  (EncodedAs .rdm [0xE9] ∧ EncodedAs .rd0 [0xEC] ∧ EncodedAs .rd1 [0xED] ∧ EncodedAs .rd2 [0xEE] ∧
      EncodedAs .rd3 [0xEF]) ∧
    ∀ (s : State) (chip reg : BitVec 2) (ch : Nibble), RamSelected s chip reg ch →
      isPopulated s.plat (.ramm s.cm chip reg ch) = true →
      let reads := fun (i : Instr) (l : Loc) => Completes i s fun t =>
        t.acc.toNat = (s.mem.read l.key).toNat % 16 ∧ t.cy = s.cy ∧ t.mem.read l.key = s.mem.read l.key
      reads .rdm (.ramm s.cm chip reg ch) ∧ reads .rd0 (.rams s.cm chip reg 0) ∧
        reads .rd1 (.rams s.cm chip reg 1) ∧ reads .rd2 (.rams s.cm chip reg 2) ∧ reads .rd3 (.rams s.cm chip reg 3)

/-- WRM and WR0 to WR3 with a valid RAM selection of a populated chip: the accumulator goes to the main memory
character, or to the status character of the selected register; every other byte, the accumulator and the carry are
unaffected. -/
def Obligations.RamWrites : Prop :=
  (EncodedAs .wrm [0xE0] ∧ EncodedAs .wr0 [0xE4] ∧ EncodedAs .wr1 [0xE5] ∧ EncodedAs .wr2 [0xE6] ∧
      EncodedAs .wr3 [0xE7]) ∧
    ∀ (s : State) (chip reg : BitVec 2) (ch : Nibble), s.mem.wf → RamSelected s chip reg ch →
      isPopulated s.plat (.ramm s.cm chip reg ch) = true →
      let writes := fun (i : Instr) (l : Loc) => Completes i s fun t =>
        (t.mem.read l.key).toNat = s.acc.toNat ∧ MemUnchangedBut l s t ∧ t.acc = s.acc ∧ t.cy = s.cy
      writes .wrm (.ramm s.cm chip reg ch) ∧ writes .wr0 (.rams s.cm chip reg 0) ∧
        writes .wr1 (.rams s.cm chip reg 1) ∧ writes .wr2 (.rams s.cm chip reg 2) ∧
        writes .wr3 (.rams s.cm chip reg 3)

/-- RDR with a valid selection of a populated port, chip = address bits 7:4: each bit is the user's constant on a line
coded as an output and the level on the line otherwise; the carry is unaffected (92 D17, D31; logs 15, 22). -/
def Obligations.RdrReadsPort : Prop :=
  EncodedAs .rdr [0xEA] ∧ ∀ (s : State) (chip low : Nibble), RomSelected s (chip ++ low) →
    isPopulated s.plat (.romPort s.romb chip) = true →
    Completes .rdr s fun t => t.cy = s.cy ∧ ∀ k < 4, ∀ port : Fin 32, port.val = 16 * s.romb.toNat + chip.toNat →
      t.acc.getLsbD k = (if s.plat.romPortOutputMask[port].getLsbD k
        then s.plat.romPortOutputReadback[port].getLsbD k else s.pins.lines[port].getLsbD k)

/-- WMP latches the accumulator on the selected RAM chip's port. WRR latches it on the selected ROM port, where the
lines coded as outputs show it and the other lines show nothing. Every other byte is unchanged (92 D17, D31; logs 15,
22). -/
def Obligations.WmpAndWrrLatchPorts : Prop :=
  (EncodedAs .wmp [0xE1] ∧ ∀ (s : State) (chip reg : BitVec 2) (ch : Nibble), s.mem.wf →
      RamSelected s chip reg ch → isPopulated s.plat (.ramPort s.cm chip) = true →
      Completes .wmp s fun t => t.ramPortOutputs s.cm chip = s.acc ∧ MemUnchangedBut (.ramPort s.cm chip) s t ∧
        t.acc = s.acc ∧ t.cy = s.cy) ∧
    EncodedAs .wrr [0xE2] ∧ ∀ (s : State) (chip low : Nibble), s.mem.wf → RomSelected s (chip ++ low) →
      isPopulated s.plat (.romPort s.romb chip) = true →
      Completes .wrr s fun t => (∀ k < 4, ∀ port : Fin 32, port.val = 16 * s.romb.toNat + chip.toNat →
          (t.romPortOutputs s.romb chip).getLsbD k =
            (s.plat.romPortOutputMask[port].getLsbD k && s.acc.getLsbD k)) ∧
        MemUnchangedBut (.romPort s.romb chip) s t ∧ t.acc = s.acc ∧ t.cy = s.cy

/-- ADM and SBM: ADD and SUB with the selected RAM character, which is unaffected (92 D3, D16; logs 12, 14). -/
def Obligations.AdmAndSbm : Prop :=
  (EncodedAs .adm [0xEB] ∧ EncodedAs .sbm [0xE8]) ∧
    ∀ (s : State) (chip reg : BitVec 2) (ch : Nibble), RamSelected s chip reg ch →
      isPopulated s.plat (.ramm s.cm chip reg ch) = true →
      let m := (s.mem.read (Loc.ramm s.cm chip reg ch).key).toNat % 16
      (Completes .adm s fun t => t.acc.toNat = (m + s.acc.toNat + s.cy.toNat) % 16 ∧
        (t.cy = true ↔ 15 < m + s.acc.toNat + s.cy.toNat) ∧ Unchanged s t .mem) ∧
      Completes .sbm s fun t => Unchanged s t .mem ∧
        (s.plat.subCarryInComplemented = true →
          (t.acc.toNat : Int) = ((s.acc.toNat : Int) - m - s.cy.toNat) % 16 ∧
            (t.cy = true ↔ m + s.cy.toNat ≤ s.acc.toNat)) ∧
        (s.plat.subCarryInComplemented = false →
          t.acc.toNat = (s.acc.toNat + (15 - m) + s.cy.toNat) % 16 ∧
            (t.cy = true ↔ 15 < s.acc.toNat + (15 - m) + s.cy.toNat))

/-- Where the instructions that act on the last SRC's selection stop (20_memory.md R83; 93 U4, U9, U13; logs 14, 16,
18): no SRC, or one sent under another bank; a RAM code that the platform does not decode; no 4289; no program RAM at
the address. -/
def Obligations.InvalidSelectionsAreRefused : Prop :=
  (∀ (i : Instr) (s : State), i ∈ ([.rdm, .rd0, .rd1, .rd2, .rd3, .wrm, .wr0, .wr1, .wr2, .wr3, .wmp, .adm, .sbm] :
      List Instr) →
    ((∀ l, s.sel = some l → l.cm ≠ s.cm) → exec i s = .refused .ramSelectionInvalid) ∧
    (∀ l, s.sel = some l → l.cm = s.cm → s.plat.ramCodesDecoded = false →
      s.cm ∈ [0b011#3, 0b101#3, 0b110#3, 0b111#3] → exec i s = .refused .ramCodeNotDecoded)) ∧
  (∀ (i : Instr) (s : State), i ∈ ([.rdr, .wrr] : List Instr) → (∀ l, s.sel = some l → l.rb ≠ s.romb) →
    exec i s = .refused .romSelectionInvalid) ∧
  ∀ (i : Instr) (s : State), i ∈ ([.wpm, .rpm] : List Instr) →
    (s.plat.with4289 = false → exec i s = .refused .no4289) ∧
    (s.plat.with4289 = true → (∀ l, s.sel = some l → l.rb ≠ s.romb) → exec i s = .refused .romSelectionInvalid) ∧
    (s.plat.with4289 = true → ∀ addr, RomSelected s addr → isPopulated s.plat (.pram s.extraLines addr) = false →
      exec i s = .refused .noProgramRam)

/-- At a chip or port that the platform does not populate, a write has no effect and a read still completes, changing
the accumulator (and the carry, for ADM and SBM) only. The model's choice among the spec's treatments (93 U5;
log 17). -/
def Obligations.UnpopulatedChipsAreInert : Prop :=
  (∀ (s : State) (chip reg : BitVec 2) (ch : Nibble), RamSelected s chip reg ch →
    isPopulated s.plat (.ramm s.cm chip reg ch) = false →
    (∀ i, i ∈ ([.wrm, .wr0, .wr1, .wr2, .wr3, .wmp] : List Instr) → exec i s = .next s) ∧
    (∀ i, i ∈ ([.rdm, .rd0, .rd1, .rd2, .rd3] : List Instr) → Completes i s fun t => OnlyChanges [.acc] s t) ∧
    ∀ i, i ∈ ([.adm, .sbm] : List Instr) → Completes i s fun t => OnlyChanges [.acc, .cy] s t) ∧
  ∀ (s : State) (chip low : Nibble), RomSelected s (chip ++ low) →
    isPopulated s.plat (.romPort s.romb chip) = false →
    exec .wrr s = .next s ∧ Completes .rdr s fun t => OnlyChanges [.acc] s t

/-- DCL writes `CR[2:0]` from the accumulator's low bits and nothing else; the enabled RAM lines and the source's bank
number then follow the table of 20_memory.md R68. A code that enables a single line always selects storage of its own,
the others where the platform decodes the lines (92 D1, D18; log 16). -/
def Obligations.DclSelectsRamBank : Prop :=
  EncodedAs .dcl [0xFD] ∧
    (∀ s, Completes .dcl s fun t => t.cm.toNat = s.acc.toNat % 8 ∧ t.cr3 = s.cr3 ∧ OnlyChanges [.cr] s t) ∧
    [0b000, 0b001, 0b010, 0b100, 0b011, 0b101, 0b110, 0b111].map cmRamLines =
      [0b0001, 0b0010, 0b0100, 0b1000, 0b0110, 0b1010, 0b1100, 0b1110] ∧
    [0b000, 0b001, 0b010, 0b100, 0b011, 0b101, 0b110, 0b111].map ramBankNumber = [0, 1, 2, 3, 4, 5, 6, 7] ∧
    ∀ (p : Platform) (code : BitVec 3), ramCodeUsable p code = true ↔
      p.ramCodesDecoded = true ∨ code ∈ [0b000#3, 0b001#3, 0b010#3, 0b100#3]

/-! ### The accumulator group -/

/-- CLB clears the accumulator and the carry; CLC clears, CMC complements and STC sets the carry and leaves the
accumulator; CMA complements the accumulator and leaves the carry. -/
def Obligations.ClearSetAndComplement : Prop :=
  (EncodedAs .clb [0xF0] ∧ ∀ s, Completes .clb s fun t => t.acc = 0 ∧ t.cy = false) ∧
    (EncodedAs .clc [0xF1] ∧ ∀ s, Completes .clc s fun t => t.acc = s.acc ∧ t.cy = false) ∧
    (EncodedAs .cmc [0xF3] ∧ ∀ s, Completes .cmc s fun t => t.acc = s.acc ∧ t.cy ≠ s.cy) ∧
    (EncodedAs .stc [0xFA] ∧ ∀ s, Completes .stc s fun t => t.acc = s.acc ∧ t.cy = true) ∧
    EncodedAs .cma [0xF4] ∧ ∀ s, Completes .cma s fun t => t.acc.toNat = 15 - s.acc.toNat ∧ t.cy = s.cy

/-- IAC and DAC: the accumulator modulo 16; the carry is the overflow of IAC, and 0 exactly for the borrow of DAC. -/
def Obligations.IacAndDac : Prop :=
  (EncodedAs .iac [0xF2] ∧ ∀ s, Completes .iac s fun t =>
      t.acc.toNat = (s.acc.toNat + 1) % 16 ∧ (t.cy = true ↔ s.acc.toNat = 15)) ∧
    EncodedAs .dac [0xF8] ∧ ∀ s, Completes .dac s fun t =>
      t.acc.toNat = (s.acc.toNat + 15) % 16 ∧ (t.cy = false ↔ s.acc.toNat = 0)

/-- RAL and RAR rotate the five bits CY : ACC by one place; RAR undoes RAL, and five RAL change nothing. -/
def Obligations.RalAndRarRotate : Prop :=
  (EncodedAs .ral [0xF5] ∧ ∀ s, Completes .ral s fun t =>
      t.acc.getLsbD 0 = s.cy ∧ (∀ k < 3, t.acc.getLsbD (k + 1) = s.acc.getLsbD k) ∧ t.cy = s.acc.getLsbD 3) ∧
    (EncodedAs .rar [0xF6] ∧ ∀ s, Completes .rar s fun t =>
      t.cy = s.acc.getLsbD 0 ∧ (∀ k < 3, t.acc.getLsbD k = s.acc.getLsbD (k + 1)) ∧ t.acc.getLsbD 3 = s.cy) ∧
    ∀ s, let ral := exec .ral
      andThen (ral s) (exec .rar) = .next s ∧
        andThen (andThen (andThen (andThen (ral s) ral) ral) ral) ral = .next s

/-- TCC puts the carry in the accumulator, TCS 9 plus the carry; both clear the carry. -/
def Obligations.TccAndTcs : Prop :=
  (EncodedAs .tcc [0xF7] ∧ ∀ s, Completes .tcc s fun t => t.acc.toNat = s.cy.toNat ∧ t.cy = false) ∧
    EncodedAs .tcs [0xF9] ∧ ∀ s, Completes .tcs s fun t => t.acc.toNat = 9 + s.cy.toNat ∧ t.cy = false

/-- DAA adds 6 if the carry is 1 or the accumulator is greater than 9; the carry becomes 1 if that generates a carry
and is otherwise unaffected. After ADD of two decimal digits it leaves the decimal digit and the decimal carry. -/
def Obligations.DaaAdjusts : Prop :=
  EncodedAs .daa [0xFB] ∧
    (∀ s, Completes .daa s fun t =>
      if s.cy = true ∨ 9 < s.acc.toNat then
        t.acc.toNat = (s.acc.toNat + 6) % 16 ∧ (t.cy = true ↔ 15 < s.acc.toNat + 6 ∨ s.cy = true)
      else t.acc = s.acc ∧ t.cy = s.cy) ∧
    ∀ (s : State) (r : Nibble), s.acc.toNat ≤ 9 → (s.reg (s.regName r)).toNat ≤ 9 →
      ∃ t, andThen (exec (.add r) s) (exec .daa) = .next t ∧
        10 * t.cy.toNat + t.acc.toNat = s.acc.toNat + (s.reg (s.regName r)).toNat + s.cy.toNat

/-- KBP converts the accumulator as its table says and leaves the carry. -/
def Obligations.KbpConverts : Prop :=
  EncodedAs .kbp [0xFC] ∧ ∀ s, Completes .kbp s fun t => t.cy = s.cy ∧
    t.acc = [0, 1, 2, 15, 3, 15, 15, 15, 4, 15, 15, 15, 15, 15, 15, 15].getD s.acc.toNat 0

/-! ### Frames -/

/-- Every instruction, whenever it has a next state, changes at most its destinations: every other register, flag,
stack register and special register is as before, and every byte of memory reads as before unless it stores. The
reading rule is the spec's own (92 D1; log 25). -/
def Obligations.InstructionsChangeOnlyDestinations : Prop :=
  ∀ (i : Instr) (s t : State), exec i s = .next t → OnlyChanges (destinations i) s t

/-- Within the destinations: only the named index register or pair changes; only the byte at the address stored to
changes, the address computed as the meaning computes it; WPM keeps the other half of its word; JMS writes one register
of the address stack, BBL and BBS none (92 D1; log 25). -/
def Obligations.InstructionsKeepTheRest : Prop :=
  (∀ (r : Nibble) (a8 : Byte) (s t : State),
      exec (.inc r) s = .next t ∨ exec (.xch r) s = .next t ∨ exec (.isz r a8) s = .next t →
      RegsUnchangedBut [s.regName r] s t) ∧
    (∀ (p : PairAddr) (d8 : Byte) (s t : State), exec (.fim p d8) s = .next t ∨ exec (.fin p) s = .next t →
      RegsUnchangedBut [s.evenName p, s.oddName p] s t) ∧
    (∀ (s t : State) (a : RamSel), s.mem.wf → s.ramSel = .ok a →
      (exec .wrm s = .next t → MemUnchangedBut a.main s t) ∧
      (exec .wr0 s = .next t → MemUnchangedBut (a.status 0) s t) ∧
      (exec .wr1 s = .next t → MemUnchangedBut (a.status 1) s t) ∧
      (exec .wr2 s = .next t → MemUnchangedBut (a.status 2) s t) ∧
      (exec .wr3 s = .next t → MemUnchangedBut (a.status 3) s t) ∧
      (exec .wmp s = .next t → MemUnchangedBut (.ramPort a.code a.chip) s t)) ∧
    (∀ (s t : State) (addr : Byte), s.mem.wf → s.romAddr = .ok addr → exec .wrr s = .next t →
      MemUnchangedBut (.romPort s.romb addr.high) s t) ∧
    (∀ (s t : State) (l : Loc), s.mem.wf → s.pramSel = .ok l → exec .wpm s = .next t →
      MemUnchangedBut l s t ∧
        halfOf (!s.movesHigh) (t.mem.read l.key) = halfOf (!s.movesHigh) (s.mem.read l.key)) ∧
    (∀ (a12 : Addr) (s t : State), exec (.jms a12) s = .next t →
      ∀ j, j ≠ s.sp + 1 → t.stackReg j = s.stackReg j) ∧
    ∀ (d : Nibble) (s t : State), exec (.bbl d) s = .next t ∨ exec .bbs s = .next t →
      ∀ j, t.stackReg j = s.stackReg j

/-! ### Program memory -/

/-- Which location answers a program address in the activated ROM bank: ROM where no region of the fetch map covers it,
and program RAM at `a[7:0]` where one does, the first that covers it naming the page; with the map of the reset
platform, page 15 of either bank. The extra address lines carry the output port wired to them, 0 if none. A word that
WPM wrote answers at every address that program RAM answers there, at once, the other half kept, and every other
address reads as before (92 D15, D20, D21; logs 18, 19, 24, 35). That a mapped fetch reads the page the platform names, by
default the lines' present value, is the model's choice (log 34). -/
def Obligations.ProgramAddressesLocated : Prop :=
  (∀ (s : State) (a : Addr), (∀ r ∈ s.plat.pramFetchMap, ¬Covers r s.romb a) → s.programLoc a = .rom s.romb a) ∧
    (∀ (s : State) (a : Addr) (before after : List FetchRegion) (r : FetchRegion),
      s.plat.pramFetchMap = before ++ r :: after → (∀ q ∈ before, ¬Covers q s.romb a) → Covers r s.romb a →
      (r.page = .lines → s.programLoc a = .pram s.extraLines (BitVec.ofNat 8 (a.toNat % 256))) ∧
      ∀ ext, r.page = .fixed ext → s.programLoc a = .pram ext (BitVec.ofNat 8 (a.toNat % 256))) ∧
    (∀ (s : State) (a : Addr), s.plat.pramFetchMap = State.reset.plat.pramFetchMap →
      s.programLoc a =
        (if 0xF00 ≤ a.toNat then .pram s.extraLines (BitVec.ofNat 8 (a.toNat % 256)) else .rom s.romb a)) ∧
    (∀ s : State, (s.plat.pramExtraLines = none → s.extraLines = 0) ∧
      (∀ code chip, s.plat.pramExtraLines = some (.ram code chip) → s.extraLines = s.ramPortOutputs code chip) ∧
      ∀ bank chip, s.plat.pramExtraLines = some (.rom bank chip) → s.extraLines = s.romPortOutputs bank chip) ∧
    ∀ (s : State) (addr : Byte), s.mem.wf → PramSelected s addr → Completes .wpm s fun t =>
      ∀ a, let old := (s.mem.read (s.programLoc a).key).toNat
        t.programLoc a = s.programLoc a ∧
          (t.mem.read (t.programLoc a).key).toNat =
            (if s.programLoc a ≠ .pram s.extraLines addr then old
              else if (if s.plat.pramFirstIsHigh then s.fl = .first else s.fl = .last) then
                16 * s.acc.toNat + old % 16
              else 16 * (old / 16) + s.acc.toNat)

end
end

