-- ==== Sys2Proof/Laws/Decode.lean ====
section
/-! SUPPORT. The fields of encoded words, and the decoder by the length that a first word selects. -/
namespace Sys2Proof

/-! ### Fields -/

@[simp] theorem high_word4 (opr opa : Nibble) : (word4 opr opa).high = opr := by
  revert opr opa
  decide

@[simp] theorem low_word4 (opr opa : Nibble) : (word4 opr opa).low = opa := by
  revert opr opa
  decide

@[simp] theorem high_wordPair (opr : Nibble) (p : PairAddr) (b : BitVec 1) : (wordPair opr p b).high = opr := by
  revert opr p b
  decide

@[simp] theorem pairField_wordPair (opr : Nibble) (p : PairAddr) (b : BitVec 1) :
    pairField (wordPair opr p b) = p := by
  revert opr p b
  decide

@[simp] theorem bit0_wordPair (opr : Nibble) (p : PairAddr) (b : BitVec 1) : (wordPair opr p b)[0] = b[0] := by
  revert opr p b
  decide

/-- A first word is its two halves. -/
theorem word4_high_low (w : Byte) : word4 w.high w.low = w := by
  revert w
  decide

/-- The 12-bit operand of JUN and JMS, put together and taken apart (30_encoding.md R92). -/
@[simp] theorem addr_append (a : Addr) : a.extractLsb' 8 4 ++ a.setWidth 8 = a := by
  apply BitVec.eq_of_getLsbD_eq
  intro i hi
  rw [BitVec.getLsbD_append]
  by_cases h : i < 8
  · simp [h]
  · have h4 : i - 8 < 4 := by omega
    have h8 : 8 + (i - 8) = i := by omega
    simp [h, h4, h8]

@[simp] theorem addr_opa (n : Nibble) (w : Byte) : (n ++ w : Addr).extractLsb' 8 4 = n := by
  apply BitVec.eq_of_getLsbD_eq
  intro i hi
  rw [BitVec.getLsbD_extractLsb', BitVec.getLsbD_append]
  simp [hi]

@[simp] theorem addr_second (n : Nibble) (w : Byte) : (n ++ w : Addr).setWidth 8 = w := by
  apply BitVec.eq_of_getLsbD_eq
  intro i hi
  rw [BitVec.getLsbD_setWidth, BitVec.getLsbD_append]
  simp [hi]

/-! ### The decoder -/

theorem decode_two {w1 : Byte} (h : isTwoWord w1 = true) (w2 : Byte) (rest : List Byte) :
    decode (w1 :: w2 :: rest) =
      match decodeTwoWord w1 w2 with
      | some i => .ok i rest
      | none => .invalid (.unassigned w1) := by
  simp only [decode, h]
  rfl

theorem decode_one {w1 : Byte} (h : isTwoWord w1 = false) (rest : List Byte) :
    decode (w1 :: rest) =
      match decodeOneWord w1 with
      | some i => .ok i rest
      | none => .invalid (.unassigned w1) := by
  simp only [decode, h]
  rfl

/-- A one-word instruction is encoded as the word it was decoded from. -/
theorem encode_of_decodeOneWord (w1 : Byte) (i : Instr) (h : decodeOneWord w1 = some i) : encode i = [w1] := by
  have key : ∀ w : Byte, (decodeOneWord w).all (fun j => encode j == [w]) = true := by decide
  have := key w1
  rw [h] at this
  exact eq_of_beq this

end Sys2Proof
end

