-- ==== Sys2Proof/Laws/Memory.lean ====
section
/-! SUPPORT. Memory: reads after writes, the canonical form, the keys of the tagged addresses. -/
namespace Sys2Proof.Machine

/-! ### The canonical form -/

/-- The part of the canonical form that reads and writes need: keys strictly rising. -/
abbrev Memory.sorted (m : Memory) : Prop := m.Pairwise (fun c d => c.1 < d.1)

theorem Memory.wf_sorted {m : Memory} (h : m.wf) : m.sorted := h.1

theorem Memory.mem_consCell {k : Nat} {v : Byte} {m : Memory} {c : Host.Cell}
    (h : c ∈ Memory.consCell k v m) : c = (k, v) ∧ v ≠ Memory.unlisted ∨ c ∈ m := by
  unfold Memory.consCell at h
  split at h
  · exact .inr h
  · rcases List.mem_cons.1 h with h | h
    · exact .inl ⟨h, ‹_›⟩
    · exact .inr h

/-- A cell of a memory after a write is the written one or was there before. -/
theorem Memory.mem_write {m : Memory} {k : Nat} {v : Byte} {c : Host.Cell} (h : c ∈ m.write k v) :
    c = (k, v) ∧ v ≠ Memory.unlisted ∨ c ∈ m := by
  induction m with
  | nil => exact Memory.mem_consCell h
  | cons d m ih =>
    simp only [Memory.write] at h
    split at h
    · exact Memory.mem_consCell h
    · split at h
      · rcases Memory.mem_consCell h with h | h
        · exact .inl h
        · exact .inr (List.mem_cons_of_mem _ h)
      · rcases List.mem_cons.1 h with h | h
        · exact .inr (h ▸ List.mem_cons_self)
        · exact (ih h).imp id (List.mem_cons_of_mem _)

theorem Memory.sorted_consCell {k : Nat} {v : Byte} {m : Memory} (hm : m.sorted) (h : ∀ c ∈ m, k < c.1) :
    (Memory.consCell k v m).sorted := by
  unfold Memory.consCell
  split
  · exact hm
  · exact List.pairwise_cons.2 ⟨h, hm⟩

/-- A write keeps the keys rising. -/
theorem Memory.sorted_write {m : Memory} (hm : m.sorted) (k : Nat) (v : Byte) : (m.write k v).sorted := by
  induction m with
  | nil => exact Memory.sorted_consCell List.Pairwise.nil fun c hc => nomatch hc
  | cons d m ih =>
    obtain ⟨hd, hm'⟩ := List.pairwise_cons.1 hm
    simp only [Memory.write]
    split
    · refine Memory.sorted_consCell hm fun c hc => ?_
      rcases List.mem_cons.1 hc with rfl | hc
      · assumption
      · exact Nat.lt_trans ‹_› (hd c hc)
    · split
      · rename_i h
        exact Memory.sorted_consCell hm' (h ▸ hd)
      · refine List.pairwise_cons.2 ⟨fun c hc => ?_, ih hm'⟩
        rcases Memory.mem_write hc with ⟨rfl, -⟩ | hc
        · simp only
          omega
        · exact hd c hc

/-- A write of an allowed cell keeps the canonical form. -/
theorem Memory.wf_write {m : Memory} (hm : m.wf) {k : Nat} {v : Byte} (h : cellAllowed (k, v)) :
    (m.write k v).wf := by
  refine ⟨Memory.sorted_write hm.1 k v, fun c hc => ?_⟩
  rcases Memory.mem_write hc with ⟨rfl, hv⟩ | hc
  · exact ⟨hv, h⟩
  · exact hm.2 c hc

theorem Memory.wf_nil : Memory.wf [] := ⟨List.Pairwise.nil, fun _ hc => nomatch hc⟩

/-! ### Reading after writing -/

theorem Memory.read_of_lt {m : Memory} {k : Nat} (h : ∀ c ∈ m, k < c.1) : m.read k = Memory.unlisted := by
  induction m with
  | nil => rfl
  | cons d m ih =>
    have hd := h d List.mem_cons_self
    simp only [Memory.read]
    rw [if_neg (by omega), ih fun c hc => h c (List.mem_cons_of_mem _ hc)]

theorem Memory.read_consCell {k j : Nat} {v : Byte} {m : Memory} (h : ∀ c ∈ m, k < c.1) :
    (Memory.consCell k v m).read j = if j = k then v else m.read j := by
  unfold Memory.consCell
  split
  · rename_i hv
    split
    · rename_i hj
      rw [hj, hv, Memory.read_of_lt h]
    · rfl
  · simp only [Memory.read, eq_comm (a := k)]

/-- Reading any byte after a write. -/
theorem Memory.read_write {m : Memory} (hm : m.sorted) (k j : Nat) (v : Byte) :
    (m.write k v).read j = if j = k then v else m.read j := by
  induction m with
  | nil => exact Memory.read_consCell (m := []) fun c hc => nomatch hc
  | cons d m ih =>
    obtain ⟨hd, hm'⟩ := List.pairwise_cons.1 hm
    simp only [Memory.write]
    split
    · refine Memory.read_consCell fun c hc => ?_
      rcases List.mem_cons.1 hc with rfl | hc
      · assumption
      · exact Nat.lt_trans ‹_› (hd c hc)
    · split
      · rename_i h
        rw [Memory.read_consCell (h ▸ hd)]
        simp only [Memory.read]
        split
        · rfl
        · rw [if_neg (by omega)]
      · simp only [Memory.read]
        rw [ih hm']
        split
        · rw [if_neg (by omega)]
        · rfl

@[simp] theorem Memory.read_write_same {m : Memory} (hm : m.sorted) (k : Nat) (v : Byte) :
    (m.write k v).read k = v := by
  simp [Memory.read_write hm]

theorem Memory.read_write_other {m : Memory} (hm : m.sorted) {k j : Nat} (h : j ≠ k) (v : Byte) :
    (m.write k v).read j = m.read j := by
  simp [Memory.read_write hm, h]

theorem Memory.read_mem_or_unlisted (m : Memory) (k : Nat) :
    (k, m.read k) ∈ m ∨ m.read k = Memory.unlisted := by
  induction m with
  | nil => exact .inr rfl
  | cons d m ih =>
    simp only [Memory.read]
    split
    · rename_i h
      exact .inl (h ▸ List.mem_cons_self)
    · exact ih.imp (List.mem_cons_of_mem _) id

/-- In a canonical memory a key of the character spaces reads as a 4-bit value. -/
theorem Memory.read_char_lt {m : Memory} (hm : m.wf) {k : Nat} (h : charBase ≤ k) : (m.read k).toNat < 16 := by
  rcases Memory.read_mem_or_unlisted m k with hc | hc
  · exact (hm.2 _ hc).2.2 h
  · rw [hc]
    decide

/-! ### Keys -/

/-- Every tagged address has a key below `keyCount`, in the character spaces exactly when it is one of them. -/
theorem Loc.key_bounds (l : Loc) : l.key < keyCount ∧ (l.isChar = true ↔ charBase ≤ l.key) := by
  cases l with
  | rom b a => have := (b ++ a).isLt; simp [Loc.key, Loc.isChar, keyCount, charBase]; omega
  | pram e a => have := (e ++ a).isLt; simp [Loc.key, Loc.isChar, keyCount, charBase]; omega
  | ramm c h r k => have := (c ++ h ++ r ++ k).isLt; simp [Loc.key, Loc.isChar, keyCount, charBase]; omega
  | rams c h r k => have := (c ++ h ++ r ++ k).isLt; simp [Loc.key, Loc.isChar, keyCount, charBase]; omega
  | ramPort c h => have := (c ++ h).isLt; simp [Loc.key, Loc.isChar, keyCount, charBase]; omega
  | romPort b h => have := (b ++ h).isLt; simp [Loc.key, Loc.isChar, keyCount, charBase]; omega

/-- Two bit strings joined are equal only if their parts are. -/
theorem append_inj {m n : Nat} {a c : BitVec m} {b d : BitVec n} (h : a ++ b = c ++ d) : a = c ∧ b = d := by
  constructor
  · apply BitVec.eq_of_getLsbD_eq
    intro i hi
    have := congrArg (·.getLsbD (n + i)) h
    simpa [BitVec.getLsbD_append, Nat.not_lt.2 (Nat.le_add_right n i)] using this
  · apply BitVec.eq_of_getLsbD_eq
    intro i hi
    have := congrArg (·.getLsbD i) h
    simpa [BitVec.getLsbD_append, hi] using this

end Sys2Proof.Machine
end

