-- ==== Sys2Proof/Laws/State.lean ====
section
/-! SUPPORT. What each named update does to each field: one lemma per field per update, true by rfl.

The proofs are written `(rfl)`, so that simp rewrites under a Decidable argument of `if` as well. -/
namespace Sys2Proof.Machine

/-! ### `State.setPc` -/

@[simp] theorem setPc_acc (s : State) (t : Addr) : (s.setPc t).acc = s.acc := (rfl)
@[simp] theorem setPc_cy (s : State) (t : Addr) : (s.setPc t).cy = s.cy := (rfl)
@[simp] theorem setPc_irb0 (s : State) (t : Addr) : (s.setPc t).irb0 = s.irb0 := (rfl)
@[simp] theorem setPc_irb1 (s : State) (t : Addr) : (s.setPc t).irb1 = s.irb1 := (rfl)
@[simp] theorem setPc_irs (s : State) (t : Addr) : (s.setPc t).irs = s.irs := (rfl)
@[simp] theorem setPc_rbs (s : State) (t : Addr) : (s.setPc t).rbs = s.rbs := (rfl)
@[simp] theorem setPc_rbsSaved (s : State) (t : Addr) : (s.setPc t).rbsSaved = s.rbsSaved := (rfl)
@[simp] theorem setPc_stk (s : State) (t : Addr) : (s.setPc t).stk = s.stk.set s.sp.toNat t s.sp.isLt := (rfl)
@[simp] theorem setPc_sp (s : State) (t : Addr) : (s.setPc t).sp = s.sp := (rfl)
@[simp] theorem setPc_cr (s : State) (t : Addr) : (s.setPc t).cr = s.cr := (rfl)
@[simp] theorem setPc_romb (s : State) (t : Addr) : (s.setPc t).romb = s.romb := (rfl)
@[simp] theorem setPc_dbcnt (s : State) (t : Addr) : (s.setPc t).dbcnt = s.dbcnt := (rfl)
@[simp] theorem setPc_srcr (s : State) (t : Addr) : (s.setPc t).srcr = s.srcr := (rfl)
@[simp] theorem setPc_srcrLoaded (s : State) (t : Addr) : (s.setPc t).srcrLoaded = s.srcrLoaded := (rfl)
@[simp] theorem setPc_sel (s : State) (t : Addr) : (s.setPc t).sel = s.sel := (rfl)
@[simp] theorem setPc_ie (s : State) (t : Addr) : (s.setPc t).ie = s.ie := (rfl)
@[simp] theorem setPc_inta (s : State) (t : Addr) : (s.setPc t).inta = s.inta := (rfl)
@[simp] theorem setPc_halt (s : State) (t : Addr) : (s.setPc t).halt = s.halt := (rfl)
@[simp] theorem setPc_stop (s : State) (t : Addr) : (s.setPc t).stop = s.stop := (rfl)
@[simp] theorem setPc_fl (s : State) (t : Addr) : (s.setPc t).fl = s.fl := (rfl)
@[simp] theorem setPc_mem (s : State) (t : Addr) : (s.setPc t).mem = s.mem := (rfl)
@[simp] theorem setPc_plat (s : State) (t : Addr) : (s.setPc t).plat = s.plat := (rfl)
@[simp] theorem setPc_script (s : State) (t : Addr) : (s.setPc t).script = s.script := (rfl)
@[simp] theorem setPc_draws (s : State) (t : Addr) : (s.setPc t).draws = s.draws := (rfl)
@[simp] theorem setPc_cm (s : State) (t : Addr) : (s.setPc t).cm = s.cm := (rfl)
@[simp] theorem setPc_cr3 (s : State) (t : Addr) : (s.setPc t).cr3 = s.cr3 := (rfl)
@[simp] theorem setPc_pins (s : State) (t : Addr) : (s.setPc t).pins = s.pins := (rfl)

/-! ### `State.push` -/

@[simp] theorem push_acc (s : State) (t : Addr) : (s.push t).acc = s.acc := (rfl)
@[simp] theorem push_cy (s : State) (t : Addr) : (s.push t).cy = s.cy := (rfl)
@[simp] theorem push_irb0 (s : State) (t : Addr) : (s.push t).irb0 = s.irb0 := (rfl)
@[simp] theorem push_irb1 (s : State) (t : Addr) : (s.push t).irb1 = s.irb1 := (rfl)
@[simp] theorem push_irs (s : State) (t : Addr) : (s.push t).irs = s.irs := (rfl)
@[simp] theorem push_rbs (s : State) (t : Addr) : (s.push t).rbs = s.rbs := (rfl)
@[simp] theorem push_rbsSaved (s : State) (t : Addr) : (s.push t).rbsSaved = s.rbsSaved := (rfl)
@[simp] theorem push_stk (s : State) (t : Addr) : (s.push t).stk = s.stk.set (s.sp + 1).toNat t (s.sp + 1).isLt := (rfl)
@[simp] theorem push_sp (s : State) (t : Addr) : (s.push t).sp = s.sp + 1 := (rfl)
@[simp] theorem push_cr (s : State) (t : Addr) : (s.push t).cr = s.cr := (rfl)
@[simp] theorem push_romb (s : State) (t : Addr) : (s.push t).romb = s.romb := (rfl)
@[simp] theorem push_dbcnt (s : State) (t : Addr) : (s.push t).dbcnt = s.dbcnt := (rfl)
@[simp] theorem push_srcr (s : State) (t : Addr) : (s.push t).srcr = s.srcr := (rfl)
@[simp] theorem push_srcrLoaded (s : State) (t : Addr) : (s.push t).srcrLoaded = s.srcrLoaded := (rfl)
@[simp] theorem push_sel (s : State) (t : Addr) : (s.push t).sel = s.sel := (rfl)
@[simp] theorem push_ie (s : State) (t : Addr) : (s.push t).ie = s.ie := (rfl)
@[simp] theorem push_inta (s : State) (t : Addr) : (s.push t).inta = s.inta := (rfl)
@[simp] theorem push_halt (s : State) (t : Addr) : (s.push t).halt = s.halt := (rfl)
@[simp] theorem push_stop (s : State) (t : Addr) : (s.push t).stop = s.stop := (rfl)
@[simp] theorem push_fl (s : State) (t : Addr) : (s.push t).fl = s.fl := (rfl)
@[simp] theorem push_mem (s : State) (t : Addr) : (s.push t).mem = s.mem := (rfl)
@[simp] theorem push_plat (s : State) (t : Addr) : (s.push t).plat = s.plat := (rfl)
@[simp] theorem push_script (s : State) (t : Addr) : (s.push t).script = s.script := (rfl)
@[simp] theorem push_draws (s : State) (t : Addr) : (s.push t).draws = s.draws := (rfl)
@[simp] theorem push_cm (s : State) (t : Addr) : (s.push t).cm = s.cm := (rfl)
@[simp] theorem push_cr3 (s : State) (t : Addr) : (s.push t).cr3 = s.cr3 := (rfl)
@[simp] theorem push_pins (s : State) (t : Addr) : (s.push t).pins = s.pins := (rfl)

/-! ### `State.pop` -/

@[simp] theorem pop_acc (s : State) : (s.pop).acc = s.acc := (rfl)
@[simp] theorem pop_cy (s : State) : (s.pop).cy = s.cy := (rfl)
@[simp] theorem pop_irb0 (s : State) : (s.pop).irb0 = s.irb0 := (rfl)
@[simp] theorem pop_irb1 (s : State) : (s.pop).irb1 = s.irb1 := (rfl)
@[simp] theorem pop_irs (s : State) : (s.pop).irs = s.irs := (rfl)
@[simp] theorem pop_rbs (s : State) : (s.pop).rbs = s.rbs := (rfl)
@[simp] theorem pop_rbsSaved (s : State) : (s.pop).rbsSaved = s.rbsSaved := (rfl)
@[simp] theorem pop_stk (s : State) : (s.pop).stk = s.stk := (rfl)
@[simp] theorem pop_sp (s : State) : (s.pop).sp = s.sp - 1 := (rfl)
@[simp] theorem pop_cr (s : State) : (s.pop).cr = s.cr := (rfl)
@[simp] theorem pop_romb (s : State) : (s.pop).romb = s.romb := (rfl)
@[simp] theorem pop_dbcnt (s : State) : (s.pop).dbcnt = s.dbcnt := (rfl)
@[simp] theorem pop_srcr (s : State) : (s.pop).srcr = s.srcr := (rfl)
@[simp] theorem pop_srcrLoaded (s : State) : (s.pop).srcrLoaded = s.srcrLoaded := (rfl)
@[simp] theorem pop_sel (s : State) : (s.pop).sel = s.sel := (rfl)
@[simp] theorem pop_ie (s : State) : (s.pop).ie = s.ie := (rfl)
@[simp] theorem pop_inta (s : State) : (s.pop).inta = s.inta := (rfl)
@[simp] theorem pop_halt (s : State) : (s.pop).halt = s.halt := (rfl)
@[simp] theorem pop_stop (s : State) : (s.pop).stop = s.stop := (rfl)
@[simp] theorem pop_fl (s : State) : (s.pop).fl = s.fl := (rfl)
@[simp] theorem pop_mem (s : State) : (s.pop).mem = s.mem := (rfl)
@[simp] theorem pop_plat (s : State) : (s.pop).plat = s.plat := (rfl)
@[simp] theorem pop_script (s : State) : (s.pop).script = s.script := (rfl)
@[simp] theorem pop_draws (s : State) : (s.pop).draws = s.draws := (rfl)
@[simp] theorem pop_cm (s : State) : (s.pop).cm = s.cm := (rfl)
@[simp] theorem pop_cr3 (s : State) : (s.pop).cr3 = s.cr3 := (rfl)
@[simp] theorem pop_pins (s : State) : (s.pop).pins = s.pins := (rfl)

/-! ### `State.tick` -/

@[simp] theorem tick_acc (s : State) : (s.tick).acc = s.acc := (rfl)
@[simp] theorem tick_cy (s : State) : (s.tick).cy = s.cy := (rfl)
@[simp] theorem tick_irb0 (s : State) : (s.tick).irb0 = s.irb0 := (rfl)
@[simp] theorem tick_irb1 (s : State) : (s.tick).irb1 = s.irb1 := (rfl)
@[simp] theorem tick_irs (s : State) : (s.tick).irs = s.irs := (rfl)
@[simp] theorem tick_rbs (s : State) : (s.tick).rbs = s.rbs := (rfl)
@[simp] theorem tick_rbsSaved (s : State) : (s.tick).rbsSaved = s.rbsSaved := (rfl)
@[simp] theorem tick_stk (s : State) : (s.tick).stk = s.stk := (rfl)
@[simp] theorem tick_sp (s : State) : (s.tick).sp = s.sp := (rfl)
@[simp] theorem tick_cr (s : State) : (s.tick).cr = s.cr := (rfl)
@[simp] theorem tick_romb (s : State) : (s.tick).romb = if s.dbcnt = 1 then s.cr3 else s.romb := (rfl)
@[simp] theorem tick_dbcnt (s : State) : (s.tick).dbcnt = if s.dbcnt = 0 then 0 else s.dbcnt - 1 := (rfl)
@[simp] theorem tick_srcr (s : State) : (s.tick).srcr = s.srcr := (rfl)
@[simp] theorem tick_srcrLoaded (s : State) : (s.tick).srcrLoaded = s.srcrLoaded := (rfl)
@[simp] theorem tick_sel (s : State) : (s.tick).sel = s.sel := (rfl)
@[simp] theorem tick_ie (s : State) : (s.tick).ie = s.ie := (rfl)
@[simp] theorem tick_inta (s : State) : (s.tick).inta = s.inta := (rfl)
@[simp] theorem tick_halt (s : State) : (s.tick).halt = s.halt := (rfl)
@[simp] theorem tick_stop (s : State) : (s.tick).stop = s.stop := (rfl)
@[simp] theorem tick_fl (s : State) : (s.tick).fl = s.fl := (rfl)
@[simp] theorem tick_mem (s : State) : (s.tick).mem = s.mem := (rfl)
@[simp] theorem tick_plat (s : State) : (s.tick).plat = s.plat := (rfl)
@[simp] theorem tick_script (s : State) : (s.tick).script = s.script := (rfl)
@[simp] theorem tick_draws (s : State) : (s.tick).draws = s.draws := (rfl)
@[simp] theorem tick_pc (s : State) : (s.tick).pc = s.pc := (rfl)
@[simp] theorem tick_cm (s : State) : (s.tick).cm = s.cm := (rfl)
@[simp] theorem tick_cr3 (s : State) : (s.tick).cr3 = s.cr3 := (rfl)
@[simp] theorem tick_pins (s : State) : (s.tick).pins = s.pins := (rfl)

/-! ### `State.advance` -/

@[simp] theorem advance_acc (s : State) : (s.advance).acc = s.acc := (rfl)
@[simp] theorem advance_cy (s : State) : (s.advance).cy = s.cy := (rfl)
@[simp] theorem advance_irb0 (s : State) : (s.advance).irb0 = s.irb0 := (rfl)
@[simp] theorem advance_irb1 (s : State) : (s.advance).irb1 = s.irb1 := (rfl)
@[simp] theorem advance_irs (s : State) : (s.advance).irs = s.irs := (rfl)
@[simp] theorem advance_rbs (s : State) : (s.advance).rbs = s.rbs := (rfl)
@[simp] theorem advance_rbsSaved (s : State) : (s.advance).rbsSaved = s.rbsSaved := (rfl)
@[simp] theorem advance_stk (s : State) : (s.advance).stk = s.stk := (rfl)
@[simp] theorem advance_sp (s : State) : (s.advance).sp = s.sp := (rfl)
@[simp] theorem advance_cr (s : State) : (s.advance).cr = s.cr := (rfl)
@[simp] theorem advance_romb (s : State) : (s.advance).romb = s.romb := (rfl)
@[simp] theorem advance_dbcnt (s : State) : (s.advance).dbcnt = s.dbcnt := (rfl)
@[simp] theorem advance_srcr (s : State) : (s.advance).srcr = s.srcr := (rfl)
@[simp] theorem advance_srcrLoaded (s : State) : (s.advance).srcrLoaded = s.srcrLoaded := (rfl)
@[simp] theorem advance_sel (s : State) : (s.advance).sel = s.sel := (rfl)
@[simp] theorem advance_ie (s : State) : (s.advance).ie = s.ie := (rfl)
@[simp] theorem advance_inta (s : State) : (s.advance).inta = s.inta := (rfl)
@[simp] theorem advance_halt (s : State) : (s.advance).halt = s.halt := (rfl)
@[simp] theorem advance_stop (s : State) : (s.advance).stop = s.stop := (rfl)
@[simp] theorem advance_fl (s : State) : (s.advance).fl = s.fl := (rfl)
@[simp] theorem advance_mem (s : State) : (s.advance).mem = s.mem := (rfl)
@[simp] theorem advance_plat (s : State) : (s.advance).plat = s.plat := (rfl)
@[simp] theorem advance_script (s : State) : (s.advance).script = s.script.tail := (rfl)
@[simp] theorem advance_draws (s : State) : (s.advance).draws = s.draws + 1 := (rfl)
@[simp] theorem advance_pc (s : State) : (s.advance).pc = s.pc := (rfl)
@[simp] theorem advance_cm (s : State) : (s.advance).cm = s.cm := (rfl)
@[simp] theorem advance_cr3 (s : State) : (s.advance).cr3 = s.cr3 := (rfl)

/-! ### `State.store` -/

@[simp] theorem store_acc (s : State) (l : Loc) (v : Nibble) : (s.store l v).acc = s.acc := (rfl)
@[simp] theorem store_cy (s : State) (l : Loc) (v : Nibble) : (s.store l v).cy = s.cy := (rfl)
@[simp] theorem store_irb0 (s : State) (l : Loc) (v : Nibble) : (s.store l v).irb0 = s.irb0 := (rfl)
@[simp] theorem store_irb1 (s : State) (l : Loc) (v : Nibble) : (s.store l v).irb1 = s.irb1 := (rfl)
@[simp] theorem store_irs (s : State) (l : Loc) (v : Nibble) : (s.store l v).irs = s.irs := (rfl)
@[simp] theorem store_rbs (s : State) (l : Loc) (v : Nibble) : (s.store l v).rbs = s.rbs := (rfl)
@[simp] theorem store_rbsSaved (s : State) (l : Loc) (v : Nibble) : (s.store l v).rbsSaved = s.rbsSaved := (rfl)
@[simp] theorem store_stk (s : State) (l : Loc) (v : Nibble) : (s.store l v).stk = s.stk := (rfl)
@[simp] theorem store_sp (s : State) (l : Loc) (v : Nibble) : (s.store l v).sp = s.sp := (rfl)
@[simp] theorem store_cr (s : State) (l : Loc) (v : Nibble) : (s.store l v).cr = s.cr := (rfl)
@[simp] theorem store_romb (s : State) (l : Loc) (v : Nibble) : (s.store l v).romb = s.romb := (rfl)
@[simp] theorem store_dbcnt (s : State) (l : Loc) (v : Nibble) : (s.store l v).dbcnt = s.dbcnt := (rfl)
@[simp] theorem store_srcr (s : State) (l : Loc) (v : Nibble) : (s.store l v).srcr = s.srcr := (rfl)
@[simp] theorem store_srcrLoaded (s : State) (l : Loc) (v : Nibble) : (s.store l v).srcrLoaded = s.srcrLoaded := (rfl)
@[simp] theorem store_sel (s : State) (l : Loc) (v : Nibble) : (s.store l v).sel = s.sel := (rfl)
@[simp] theorem store_ie (s : State) (l : Loc) (v : Nibble) : (s.store l v).ie = s.ie := (rfl)
@[simp] theorem store_inta (s : State) (l : Loc) (v : Nibble) : (s.store l v).inta = s.inta := (rfl)
@[simp] theorem store_halt (s : State) (l : Loc) (v : Nibble) : (s.store l v).halt = s.halt := (rfl)
@[simp] theorem store_stop (s : State) (l : Loc) (v : Nibble) : (s.store l v).stop = s.stop := (rfl)
@[simp] theorem store_fl (s : State) (l : Loc) (v : Nibble) : (s.store l v).fl = s.fl := (rfl)
@[simp] theorem store_mem (s : State) (l : Loc) (v : Nibble)
    : (s.store l v).mem = if isPopulated s.plat l then s.mem.write l.key (v.setWidth 8) else s.mem := (rfl)
@[simp] theorem store_plat (s : State) (l : Loc) (v : Nibble) : (s.store l v).plat = s.plat := (rfl)
@[simp] theorem store_script (s : State) (l : Loc) (v : Nibble) : (s.store l v).script = s.script := (rfl)
@[simp] theorem store_draws (s : State) (l : Loc) (v : Nibble) : (s.store l v).draws = s.draws := (rfl)
@[simp] theorem store_pc (s : State) (l : Loc) (v : Nibble) : (s.store l v).pc = s.pc := (rfl)
@[simp] theorem store_cm (s : State) (l : Loc) (v : Nibble) : (s.store l v).cm = s.cm := (rfl)
@[simp] theorem store_cr3 (s : State) (l : Loc) (v : Nibble) : (s.store l v).cr3 = s.cr3 := (rfl)
@[simp] theorem store_pins (s : State) (l : Loc) (v : Nibble) : (s.store l v).pins = s.pins := (rfl)

/-! ### `State.sendSrc` -/

@[simp] theorem sendSrc_acc (s : State) (a : Byte) : (s.sendSrc a).acc = s.acc := (rfl)
@[simp] theorem sendSrc_cy (s : State) (a : Byte) : (s.sendSrc a).cy = s.cy := (rfl)
@[simp] theorem sendSrc_irb0 (s : State) (a : Byte) : (s.sendSrc a).irb0 = s.irb0 := (rfl)
@[simp] theorem sendSrc_irb1 (s : State) (a : Byte) : (s.sendSrc a).irb1 = s.irb1 := (rfl)
@[simp] theorem sendSrc_irs (s : State) (a : Byte) : (s.sendSrc a).irs = s.irs := (rfl)
@[simp] theorem sendSrc_rbs (s : State) (a : Byte) : (s.sendSrc a).rbs = s.rbs := (rfl)
@[simp] theorem sendSrc_rbsSaved (s : State) (a : Byte) : (s.sendSrc a).rbsSaved = s.rbsSaved := (rfl)
@[simp] theorem sendSrc_stk (s : State) (a : Byte) : (s.sendSrc a).stk = s.stk := (rfl)
@[simp] theorem sendSrc_sp (s : State) (a : Byte) : (s.sendSrc a).sp = s.sp := (rfl)
@[simp] theorem sendSrc_cr (s : State) (a : Byte) : (s.sendSrc a).cr = s.cr := (rfl)
@[simp] theorem sendSrc_romb (s : State) (a : Byte) : (s.sendSrc a).romb = s.romb := (rfl)
@[simp] theorem sendSrc_dbcnt (s : State) (a : Byte) : (s.sendSrc a).dbcnt = s.dbcnt := (rfl)
@[simp] theorem sendSrc_srcr (s : State) (a : Byte)
    : (s.sendSrc a).srcr = if !s.inta || s.plat.srcrLoadsDuringInta then a else s.srcr := (rfl)
@[simp] theorem sendSrc_srcrLoaded (s : State) (a : Byte)
    : (s.sendSrc a).srcrLoaded = (!s.inta || s.plat.srcrLoadsDuringInta || s.srcrLoaded) := (rfl)
@[simp] theorem sendSrc_sel (s : State) (a : Byte) : (s.sendSrc a).sel = some (s.latch a) := (rfl)
@[simp] theorem sendSrc_ie (s : State) (a : Byte) : (s.sendSrc a).ie = s.ie := (rfl)
@[simp] theorem sendSrc_inta (s : State) (a : Byte) : (s.sendSrc a).inta = s.inta := (rfl)
@[simp] theorem sendSrc_halt (s : State) (a : Byte) : (s.sendSrc a).halt = s.halt := (rfl)
@[simp] theorem sendSrc_stop (s : State) (a : Byte) : (s.sendSrc a).stop = s.stop := (rfl)
@[simp] theorem sendSrc_fl (s : State) (a : Byte) : (s.sendSrc a).fl = s.fl := (rfl)
@[simp] theorem sendSrc_mem (s : State) (a : Byte) : (s.sendSrc a).mem = s.mem := (rfl)
@[simp] theorem sendSrc_plat (s : State) (a : Byte) : (s.sendSrc a).plat = s.plat := (rfl)
@[simp] theorem sendSrc_script (s : State) (a : Byte) : (s.sendSrc a).script = s.script := (rfl)
@[simp] theorem sendSrc_draws (s : State) (a : Byte) : (s.sendSrc a).draws = s.draws := (rfl)
@[simp] theorem sendSrc_pc (s : State) (a : Byte) : (s.sendSrc a).pc = s.pc := (rfl)
@[simp] theorem sendSrc_cm (s : State) (a : Byte) : (s.sendSrc a).cm = s.cm := (rfl)
@[simp] theorem sendSrc_cr3 (s : State) (a : Byte) : (s.sendSrc a).cr3 = s.cr3 := (rfl)
@[simp] theorem sendSrc_pins (s : State) (a : Byte) : (s.sendSrc a).pins = s.pins := (rfl)

/-! ### `State.forcedJms` -/

@[simp] theorem forcedJms_acc (s : State) : (s.forcedJms).acc = s.acc := (rfl)
@[simp] theorem forcedJms_cy (s : State) : (s.forcedJms).cy = s.cy := (rfl)
@[simp] theorem forcedJms_irb0 (s : State) : (s.forcedJms).irb0 = s.irb0 := (rfl)
@[simp] theorem forcedJms_irb1 (s : State) : (s.forcedJms).irb1 = s.irb1 := (rfl)
@[simp] theorem forcedJms_irs (s : State) : (s.forcedJms).irs = s.irs := (rfl)
@[simp] theorem forcedJms_rbs (s : State) : (s.forcedJms).rbs = s.rbs := (rfl)
@[simp] theorem forcedJms_rbsSaved (s : State) : (s.forcedJms).rbsSaved = s.rbs := (rfl)
@[simp] theorem forcedJms_stk (s : State)
    : (s.forcedJms).stk = s.stk.set (s.sp + 1).toNat s.plat.intVector (s.sp + 1).isLt := (rfl)
@[simp] theorem forcedJms_sp (s : State) : (s.forcedJms).sp = s.sp + 1 := (rfl)
@[simp] theorem forcedJms_cr (s : State) : (s.forcedJms).cr = s.cr := (rfl)
@[simp] theorem forcedJms_romb (s : State) : (s.forcedJms).romb = s.romb := (rfl)
@[simp] theorem forcedJms_dbcnt (s : State) : (s.forcedJms).dbcnt = s.dbcnt := (rfl)
@[simp] theorem forcedJms_srcr (s : State) : (s.forcedJms).srcr = s.srcr := (rfl)
@[simp] theorem forcedJms_srcrLoaded (s : State) : (s.forcedJms).srcrLoaded = s.srcrLoaded := (rfl)
@[simp] theorem forcedJms_sel (s : State) : (s.forcedJms).sel = s.sel := (rfl)
@[simp] theorem forcedJms_ie (s : State) : (s.forcedJms).ie = s.ie := (rfl)
@[simp] theorem forcedJms_inta (s : State) : (s.forcedJms).inta = true := (rfl)
@[simp] theorem forcedJms_halt (s : State) : (s.forcedJms).halt = false := (rfl)
@[simp] theorem forcedJms_stop (s : State) : (s.forcedJms).stop = false := (rfl)
@[simp] theorem forcedJms_fl (s : State) : (s.forcedJms).fl = s.fl := (rfl)
@[simp] theorem forcedJms_mem (s : State) : (s.forcedJms).mem = s.mem := (rfl)
@[simp] theorem forcedJms_plat (s : State) : (s.forcedJms).plat = s.plat := (rfl)
@[simp] theorem forcedJms_script (s : State) : (s.forcedJms).script = s.script := (rfl)
@[simp] theorem forcedJms_draws (s : State) : (s.forcedJms).draws = s.draws := (rfl)
@[simp] theorem forcedJms_cm (s : State) : (s.forcedJms).cm = s.cm := (rfl)
@[simp] theorem forcedJms_cr3 (s : State) : (s.forcedJms).cr3 = s.cr3 := (rfl)
@[simp] theorem forcedJms_pins (s : State) : (s.forcedJms).pins = s.pins := (rfl)

/-! ### `State.returnFromInterrupt` -/

@[simp] theorem returnFromInterrupt_acc (s : State) : (s.returnFromInterrupt).acc = s.acc := (rfl)
@[simp] theorem returnFromInterrupt_cy (s : State) : (s.returnFromInterrupt).cy = s.cy := (rfl)
@[simp] theorem returnFromInterrupt_irb0 (s : State) : (s.returnFromInterrupt).irb0 = s.irb0 := (rfl)
@[simp] theorem returnFromInterrupt_irb1 (s : State) : (s.returnFromInterrupt).irb1 = s.irb1 := (rfl)
@[simp] theorem returnFromInterrupt_irs (s : State) : (s.returnFromInterrupt).irs = s.irs := (rfl)
@[simp] theorem returnFromInterrupt_rbs (s : State) : (s.returnFromInterrupt).rbs = s.rbsSaved := (rfl)
@[simp] theorem returnFromInterrupt_rbsSaved (s : State) : (s.returnFromInterrupt).rbsSaved = s.rbsSaved := (rfl)
@[simp] theorem returnFromInterrupt_stk (s : State) : (s.returnFromInterrupt).stk = s.stk := (rfl)
@[simp] theorem returnFromInterrupt_sp (s : State) : (s.returnFromInterrupt).sp = s.sp - 1 := (rfl)
@[simp] theorem returnFromInterrupt_cr (s : State) : (s.returnFromInterrupt).cr = s.cr := (rfl)
@[simp] theorem returnFromInterrupt_romb (s : State) : (s.returnFromInterrupt).romb = s.romb := (rfl)
@[simp] theorem returnFromInterrupt_dbcnt (s : State) : (s.returnFromInterrupt).dbcnt = s.dbcnt := (rfl)
@[simp] theorem returnFromInterrupt_srcr (s : State) : (s.returnFromInterrupt).srcr = s.srcr := (rfl)
@[simp] theorem returnFromInterrupt_srcrLoaded (s : State) : (s.returnFromInterrupt).srcrLoaded = s.srcrLoaded := (rfl)
@[simp] theorem returnFromInterrupt_sel (s : State)
    : (s.returnFromInterrupt).sel = if s.srcrLoaded then some (s.latch s.srcr) else none := (rfl)
@[simp] theorem returnFromInterrupt_ie (s : State) : (s.returnFromInterrupt).ie = s.ie := (rfl)
@[simp] theorem returnFromInterrupt_inta (s : State) : (s.returnFromInterrupt).inta = false := (rfl)
@[simp] theorem returnFromInterrupt_halt (s : State) : (s.returnFromInterrupt).halt = s.halt := (rfl)
@[simp] theorem returnFromInterrupt_stop (s : State) : (s.returnFromInterrupt).stop = s.stop := (rfl)
@[simp] theorem returnFromInterrupt_fl (s : State) : (s.returnFromInterrupt).fl = s.fl := (rfl)
@[simp] theorem returnFromInterrupt_mem (s : State) : (s.returnFromInterrupt).mem = s.mem := (rfl)
@[simp] theorem returnFromInterrupt_plat (s : State) : (s.returnFromInterrupt).plat = s.plat := (rfl)
@[simp] theorem returnFromInterrupt_script (s : State) : (s.returnFromInterrupt).script = s.script := (rfl)
@[simp] theorem returnFromInterrupt_draws (s : State) : (s.returnFromInterrupt).draws = s.draws := (rfl)
@[simp] theorem returnFromInterrupt_cm (s : State) : (s.returnFromInterrupt).cm = s.cm := (rfl)
@[simp] theorem returnFromInterrupt_cr3 (s : State) : (s.returnFromInterrupt).cr3 = s.cr3 := (rfl)
@[simp] theorem returnFromInterrupt_pins (s : State) : (s.returnFromInterrupt).pins = s.pins := (rfl)

/-! ### `State.wake` -/

@[simp] theorem wake_acc (s : State) : (s.wake).acc = s.acc := (rfl)
@[simp] theorem wake_cy (s : State) : (s.wake).cy = s.cy := (rfl)
@[simp] theorem wake_irb0 (s : State) : (s.wake).irb0 = s.irb0 := (rfl)
@[simp] theorem wake_irb1 (s : State) : (s.wake).irb1 = s.irb1 := (rfl)
@[simp] theorem wake_irs (s : State) : (s.wake).irs = s.irs := (rfl)
@[simp] theorem wake_rbs (s : State) : (s.wake).rbs = s.rbs := (rfl)
@[simp] theorem wake_rbsSaved (s : State) : (s.wake).rbsSaved = s.rbsSaved := (rfl)
@[simp] theorem wake_stk (s : State) : (s.wake).stk = s.stk := (rfl)
@[simp] theorem wake_sp (s : State) : (s.wake).sp = s.sp := (rfl)
@[simp] theorem wake_cr (s : State) : (s.wake).cr = s.cr := (rfl)
@[simp] theorem wake_romb (s : State) : (s.wake).romb = s.romb := (rfl)
@[simp] theorem wake_dbcnt (s : State) : (s.wake).dbcnt = s.dbcnt := (rfl)
@[simp] theorem wake_srcr (s : State) : (s.wake).srcr = s.srcr := (rfl)
@[simp] theorem wake_srcrLoaded (s : State) : (s.wake).srcrLoaded = s.srcrLoaded := (rfl)
@[simp] theorem wake_sel (s : State) : (s.wake).sel = s.sel := (rfl)
@[simp] theorem wake_ie (s : State) : (s.wake).ie = s.ie := (rfl)
@[simp] theorem wake_inta (s : State) : (s.wake).inta = s.inta := (rfl)
@[simp] theorem wake_halt (s : State) : (s.wake).halt = false := (rfl)
@[simp] theorem wake_stop (s : State) : (s.wake).stop = false := (rfl)
@[simp] theorem wake_fl (s : State) : (s.wake).fl = s.fl := (rfl)
@[simp] theorem wake_mem (s : State) : (s.wake).mem = s.mem := (rfl)
@[simp] theorem wake_plat (s : State) : (s.wake).plat = s.plat := (rfl)
@[simp] theorem wake_script (s : State) : (s.wake).script = s.script := (rfl)
@[simp] theorem wake_draws (s : State) : (s.wake).draws = s.draws := (rfl)
@[simp] theorem wake_pc (s : State) : (s.wake).pc = s.pc := (rfl)
@[simp] theorem wake_cm (s : State) : (s.wake).cm = s.cm := (rfl)
@[simp] theorem wake_cr3 (s : State) : (s.wake).cr3 = s.cr3 := (rfl)
@[simp] theorem wake_pins (s : State) : (s.wake).pins = s.pins := (rfl)

/-! ### `State.resetEvent` -/

@[simp] theorem resetEvent_acc (s : State) : (s.resetEvent).acc = 0 := (rfl)
@[simp] theorem resetEvent_cy (s : State) : (s.resetEvent).cy = false := (rfl)
@[simp] theorem resetEvent_irb0 (s : State) : (s.resetEvent).irb0 = .replicate 8 0 := (rfl)
@[simp] theorem resetEvent_irb1 (s : State) : (s.resetEvent).irb1 = .replicate 8 0 := (rfl)
@[simp] theorem resetEvent_irs (s : State) : (s.resetEvent).irs = .replicate 8 0 := (rfl)
@[simp] theorem resetEvent_rbs (s : State) : (s.resetEvent).rbs = false := (rfl)
@[simp] theorem resetEvent_rbsSaved (s : State) : (s.resetEvent).rbsSaved = false := (rfl)
@[simp] theorem resetEvent_stk (s : State) : (s.resetEvent).stk = (Vector.replicate 8 0).set 0 s.plat.resetPC := (rfl)
@[simp] theorem resetEvent_sp (s : State) : (s.resetEvent).sp = 0 := (rfl)
@[simp] theorem resetEvent_cr (s : State) : (s.resetEvent).cr = 0 := (rfl)
@[simp] theorem resetEvent_romb (s : State) : (s.resetEvent).romb = 0 := (rfl)
@[simp] theorem resetEvent_dbcnt (s : State) : (s.resetEvent).dbcnt = 0 := (rfl)
@[simp] theorem resetEvent_srcr (s : State) : (s.resetEvent).srcr = 0 := (rfl)
@[simp] theorem resetEvent_srcrLoaded (s : State) : (s.resetEvent).srcrLoaded = false := (rfl)
@[simp] theorem resetEvent_sel (s : State) : (s.resetEvent).sel = none := (rfl)
@[simp] theorem resetEvent_ie (s : State) : (s.resetEvent).ie = s.plat.resetIE := (rfl)
@[simp] theorem resetEvent_inta (s : State) : (s.resetEvent).inta = false := (rfl)
@[simp] theorem resetEvent_halt (s : State) : (s.resetEvent).halt = false := (rfl)
@[simp] theorem resetEvent_stop (s : State) : (s.resetEvent).stop = false := (rfl)
@[simp] theorem resetEvent_fl (s : State) : (s.resetEvent).fl = .first := (rfl)
@[simp] theorem resetEvent_mem (s : State) : (s.resetEvent).mem = s.mem := (rfl)
@[simp] theorem resetEvent_plat (s : State) : (s.resetEvent).plat = s.plat := (rfl)
@[simp] theorem resetEvent_script (s : State) : (s.resetEvent).script = s.script := (rfl)
@[simp] theorem resetEvent_draws (s : State) : (s.resetEvent).draws = s.draws := (rfl)
@[simp] theorem resetEvent_pins (s : State) : (s.resetEvent).pins = s.pins := (rfl)

/-! ### `State.setX` -/

@[simp] theorem setX_acc (s : State) (r v : Nibble) : (s.setX r v).acc = s.acc := (rfl)
@[simp] theorem setX_cy (s : State) (r v : Nibble) : (s.setX r v).cy = s.cy := (rfl)
@[simp] theorem setX_irb0 (s : State) (r v : Nibble)
    : (s.setX r v).irb0 = if !r[3] && !s.rbs then fileSet s.irb0 (regIndex r) v else s.irb0 := (rfl)
@[simp] theorem setX_irb1 (s : State) (r v : Nibble)
    : (s.setX r v).irb1 = if !r[3] && s.rbs then fileSet s.irb1 (regIndex r) v else s.irb1 := (rfl)
@[simp] theorem setX_irs (s : State) (r v : Nibble)
    : (s.setX r v).irs = if r[3] then fileSet s.irs (regIndex r) v else s.irs := (rfl)
@[simp] theorem setX_rbs (s : State) (r v : Nibble) : (s.setX r v).rbs = s.rbs := (rfl)
@[simp] theorem setX_rbsSaved (s : State) (r v : Nibble) : (s.setX r v).rbsSaved = s.rbsSaved := (rfl)
@[simp] theorem setX_stk (s : State) (r v : Nibble) : (s.setX r v).stk = s.stk := (rfl)
@[simp] theorem setX_sp (s : State) (r v : Nibble) : (s.setX r v).sp = s.sp := (rfl)
@[simp] theorem setX_cr (s : State) (r v : Nibble) : (s.setX r v).cr = s.cr := (rfl)
@[simp] theorem setX_romb (s : State) (r v : Nibble) : (s.setX r v).romb = s.romb := (rfl)
@[simp] theorem setX_dbcnt (s : State) (r v : Nibble) : (s.setX r v).dbcnt = s.dbcnt := (rfl)
@[simp] theorem setX_srcr (s : State) (r v : Nibble) : (s.setX r v).srcr = s.srcr := (rfl)
@[simp] theorem setX_srcrLoaded (s : State) (r v : Nibble) : (s.setX r v).srcrLoaded = s.srcrLoaded := (rfl)
@[simp] theorem setX_sel (s : State) (r v : Nibble) : (s.setX r v).sel = s.sel := (rfl)
@[simp] theorem setX_ie (s : State) (r v : Nibble) : (s.setX r v).ie = s.ie := (rfl)
@[simp] theorem setX_inta (s : State) (r v : Nibble) : (s.setX r v).inta = s.inta := (rfl)
@[simp] theorem setX_halt (s : State) (r v : Nibble) : (s.setX r v).halt = s.halt := (rfl)
@[simp] theorem setX_stop (s : State) (r v : Nibble) : (s.setX r v).stop = s.stop := (rfl)
@[simp] theorem setX_fl (s : State) (r v : Nibble) : (s.setX r v).fl = s.fl := (rfl)
@[simp] theorem setX_mem (s : State) (r v : Nibble) : (s.setX r v).mem = s.mem := (rfl)
@[simp] theorem setX_plat (s : State) (r v : Nibble) : (s.setX r v).plat = s.plat := (rfl)
@[simp] theorem setX_script (s : State) (r v : Nibble) : (s.setX r v).script = s.script := (rfl)
@[simp] theorem setX_draws (s : State) (r v : Nibble) : (s.setX r v).draws = s.draws := (rfl)
@[simp] theorem setX_pc (s : State) (r v : Nibble) : (s.setX r v).pc = s.pc := (rfl)
@[simp] theorem setX_cm (s : State) (r v : Nibble) : (s.setX r v).cm = s.cm := (rfl)
@[simp] theorem setX_cr3 (s : State) (r v : Nibble) : (s.setX r v).cr3 = s.cr3 := (rfl)
@[simp] theorem setX_pins (s : State) (r v : Nibble) : (s.setX r v).pins = s.pins := (rfl)

/-! ### `State.setXp` -/

@[simp] theorem setXp_acc (s : State) (p : PairAddr) (v : Byte) : (s.setXp p v).acc = s.acc := (rfl)
@[simp] theorem setXp_cy (s : State) (p : PairAddr) (v : Byte) : (s.setXp p v).cy = s.cy := (rfl)
@[simp] theorem setXp_rbs (s : State) (p : PairAddr) (v : Byte) : (s.setXp p v).rbs = s.rbs := (rfl)
@[simp] theorem setXp_rbsSaved (s : State) (p : PairAddr) (v : Byte) : (s.setXp p v).rbsSaved = s.rbsSaved := (rfl)
@[simp] theorem setXp_stk (s : State) (p : PairAddr) (v : Byte) : (s.setXp p v).stk = s.stk := (rfl)
@[simp] theorem setXp_sp (s : State) (p : PairAddr) (v : Byte) : (s.setXp p v).sp = s.sp := (rfl)
@[simp] theorem setXp_cr (s : State) (p : PairAddr) (v : Byte) : (s.setXp p v).cr = s.cr := (rfl)
@[simp] theorem setXp_romb (s : State) (p : PairAddr) (v : Byte) : (s.setXp p v).romb = s.romb := (rfl)
@[simp] theorem setXp_dbcnt (s : State) (p : PairAddr) (v : Byte) : (s.setXp p v).dbcnt = s.dbcnt := (rfl)
@[simp] theorem setXp_srcr (s : State) (p : PairAddr) (v : Byte) : (s.setXp p v).srcr = s.srcr := (rfl)
@[simp] theorem setXp_srcrLoaded (s : State) (p : PairAddr) (v : Byte)
    : (s.setXp p v).srcrLoaded = s.srcrLoaded := (rfl)
@[simp] theorem setXp_sel (s : State) (p : PairAddr) (v : Byte) : (s.setXp p v).sel = s.sel := (rfl)
@[simp] theorem setXp_ie (s : State) (p : PairAddr) (v : Byte) : (s.setXp p v).ie = s.ie := (rfl)
@[simp] theorem setXp_inta (s : State) (p : PairAddr) (v : Byte) : (s.setXp p v).inta = s.inta := (rfl)
@[simp] theorem setXp_halt (s : State) (p : PairAddr) (v : Byte) : (s.setXp p v).halt = s.halt := (rfl)
@[simp] theorem setXp_stop (s : State) (p : PairAddr) (v : Byte) : (s.setXp p v).stop = s.stop := (rfl)
@[simp] theorem setXp_fl (s : State) (p : PairAddr) (v : Byte) : (s.setXp p v).fl = s.fl := (rfl)
@[simp] theorem setXp_mem (s : State) (p : PairAddr) (v : Byte) : (s.setXp p v).mem = s.mem := (rfl)
@[simp] theorem setXp_plat (s : State) (p : PairAddr) (v : Byte) : (s.setXp p v).plat = s.plat := (rfl)
@[simp] theorem setXp_script (s : State) (p : PairAddr) (v : Byte) : (s.setXp p v).script = s.script := (rfl)
@[simp] theorem setXp_draws (s : State) (p : PairAddr) (v : Byte) : (s.setXp p v).draws = s.draws := (rfl)
@[simp] theorem setXp_pc (s : State) (p : PairAddr) (v : Byte) : (s.setXp p v).pc = s.pc := (rfl)
@[simp] theorem setXp_cm (s : State) (p : PairAddr) (v : Byte) : (s.setXp p v).cm = s.cm := (rfl)
@[simp] theorem setXp_cr3 (s : State) (p : PairAddr) (v : Byte) : (s.setXp p v).cr3 = s.cr3 := (rfl)
@[simp] theorem setXp_pins (s : State) (p : PairAddr) (v : Byte) : (s.setXp p v).pins = s.pins := (rfl)

/-! ### `State.setSum` -/

@[simp] theorem setSum_acc (s : State) (r : Sum4) : (s.setSum r).acc = r.value := (rfl)
@[simp] theorem setSum_cy (s : State) (r : Sum4) : (s.setSum r).cy = r.carry := (rfl)
@[simp] theorem setSum_irb0 (s : State) (r : Sum4) : (s.setSum r).irb0 = s.irb0 := (rfl)
@[simp] theorem setSum_irb1 (s : State) (r : Sum4) : (s.setSum r).irb1 = s.irb1 := (rfl)
@[simp] theorem setSum_irs (s : State) (r : Sum4) : (s.setSum r).irs = s.irs := (rfl)
@[simp] theorem setSum_rbs (s : State) (r : Sum4) : (s.setSum r).rbs = s.rbs := (rfl)
@[simp] theorem setSum_rbsSaved (s : State) (r : Sum4) : (s.setSum r).rbsSaved = s.rbsSaved := (rfl)
@[simp] theorem setSum_stk (s : State) (r : Sum4) : (s.setSum r).stk = s.stk := (rfl)
@[simp] theorem setSum_sp (s : State) (r : Sum4) : (s.setSum r).sp = s.sp := (rfl)
@[simp] theorem setSum_cr (s : State) (r : Sum4) : (s.setSum r).cr = s.cr := (rfl)
@[simp] theorem setSum_romb (s : State) (r : Sum4) : (s.setSum r).romb = s.romb := (rfl)
@[simp] theorem setSum_dbcnt (s : State) (r : Sum4) : (s.setSum r).dbcnt = s.dbcnt := (rfl)
@[simp] theorem setSum_srcr (s : State) (r : Sum4) : (s.setSum r).srcr = s.srcr := (rfl)
@[simp] theorem setSum_srcrLoaded (s : State) (r : Sum4) : (s.setSum r).srcrLoaded = s.srcrLoaded := (rfl)
@[simp] theorem setSum_sel (s : State) (r : Sum4) : (s.setSum r).sel = s.sel := (rfl)
@[simp] theorem setSum_ie (s : State) (r : Sum4) : (s.setSum r).ie = s.ie := (rfl)
@[simp] theorem setSum_inta (s : State) (r : Sum4) : (s.setSum r).inta = s.inta := (rfl)
@[simp] theorem setSum_halt (s : State) (r : Sum4) : (s.setSum r).halt = s.halt := (rfl)
@[simp] theorem setSum_stop (s : State) (r : Sum4) : (s.setSum r).stop = s.stop := (rfl)
@[simp] theorem setSum_fl (s : State) (r : Sum4) : (s.setSum r).fl = s.fl := (rfl)
@[simp] theorem setSum_mem (s : State) (r : Sum4) : (s.setSum r).mem = s.mem := (rfl)
@[simp] theorem setSum_plat (s : State) (r : Sum4) : (s.setSum r).plat = s.plat := (rfl)
@[simp] theorem setSum_script (s : State) (r : Sum4) : (s.setSum r).script = s.script := (rfl)
@[simp] theorem setSum_draws (s : State) (r : Sum4) : (s.setSum r).draws = s.draws := (rfl)
@[simp] theorem setSum_pc (s : State) (r : Sum4) : (s.setSum r).pc = s.pc := (rfl)
@[simp] theorem setSum_cm (s : State) (r : Sum4) : (s.setSum r).cm = s.cm := (rfl)
@[simp] theorem setSum_cr3 (s : State) (r : Sum4) : (s.setSum r).cr3 = s.cr3 := (rfl)
@[simp] theorem setSum_pins (s : State) (r : Sum4) : (s.setSum r).pins = s.pins := (rfl)

end Sys2Proof.Machine
end

