-- ==== Sys2Proof/Laws/Ops.lean ====
section
/-! SUPPORT. What each shared operation can do, said once. -/
namespace Sys2Proof.Machine

/-! ### Program counter and address stack -/

@[simp] theorem setPc_pc (s : State) (t : Addr) : (s.setPc t).pc = t := by simp [State.pc, State.setPc]

@[simp] theorem push_pc (s : State) (t : Addr) : (s.push t).pc = t := by simp [State.pc, State.push]

theorem setPc_self (s : State) : s.setPc s.pc = s := by
  simp [State.setPc, State.pc]

@[simp] theorem forcedJms_pc (s : State) : s.forcedJms.pc = s.plat.intVector := by
  simp [State.pc, State.forcedJms, State.push]

/-- `pop` undoes `push` on the selector. -/
@[simp] theorem push_pop_sp (s : State) (t : Addr) : ((s.push t).pop).sp = s.sp :=
  BitVec.add_sub_cancel _ _

theorem bitVec3_succ_ne (n : BitVec 3) : (n + 1).toNat ≠ n.toNat := by
  revert n
  decide

/-- After a push and a pop the program counter is the return address (10_state.md R32). -/
@[simp] theorem push_pop_pc (s : State) (t : Addr) : ((s.push t).pop).pc = s.pc := by
  have h : ((s.push t).pop).pc = (s.stk.set (s.sp + 1).toNat t (s.sp + 1).isLt)[(s.sp + 1 - 1).toNat]'(s.sp + 1 - 1).isLt :=
    rfl
  simp only [h, BitVec.add_sub_cancel]
  exact Vector.getElem_set_ne _ s.sp.isLt (bitVec3_succ_ne s.sp)

/-- The program counter is the selected register of the address stack. -/
theorem pc_eq_stackReg (s : State) : s.pc = s.stackReg s.sp := rfl

/-- A push writes the next register of the address stack and no other (10_state.md R32). -/
theorem stackReg_push (s : State) (t : Addr) (j : BitVec 3) :
    (s.push t).stackReg j = if j = s.sp + 1 then t else s.stackReg j := by
  have h : (s.push t).stackReg j = (s.stk.set (s.sp + 1).toNat t (s.sp + 1).isLt)[j.toNat]'j.isLt := rfl
  rw [h, Vector.getElem_set]
  simp only [BitVec.toNat_inj, eq_comm (a := s.sp + 1)]
  rfl

/-- A jump writes the selected register of the address stack and no other (R31). -/
theorem stackReg_setPc (s : State) (t : Addr) (j : BitVec 3) :
    (s.setPc t).stackReg j = if j = s.sp then t else s.stackReg j := by
  have h : (s.setPc t).stackReg j = (s.stk.set s.sp.toNat t s.sp.isLt)[j.toNat]'j.isLt := rfl
  rw [h, Vector.getElem_set]
  simp only [BitVec.toNat_inj, eq_comm (a := s.sp)]
  rfl

/-- A pop writes none (R32). -/
@[simp] theorem stackReg_pop (s : State) (j : BitVec 3) : s.pop.stackReg j = s.stackReg j := rfl

@[simp] theorem stackReg_forcedJms (s : State) (j : BitVec 3) :
    s.forcedJms.stackReg j = (s.push s.plat.intVector).stackReg j := rfl

/-! ### The ROM bank delay -/

/-- A cycle with no change pending changes nothing. -/
theorem tick_of_settled (s : State) (h : s.dbcnt = 0) : s.tick = s := by
  cases s
  simp_all [State.tick]

/-- DB0 and DB1 either designate the bank with no change pending, or have no meaning. -/
theorem designateRomBank_next (s t : State) (bank : BitVec 1) (h : s.designateRomBank bank = .next t) :
    s.dbcnt = 0 ∧ t = { s with cr := bank ++ s.cm, dbcnt := 3 } := by
  unfold State.designateRomBank at h
  split at h
  · injection h with h
    exact ⟨‹_›, h.symm⟩
  · nomatch h

/-- Interrupt entry either makes the forced JMS with no change pending, or has no meaning. -/
theorem interruptEntry_next (s t : State) (h : s.interruptEntry = .next t) : s.dbcnt = 0 ∧ t = s.forcedJms := by
  unfold State.interruptEntry at h
  split at h
  · injection h with h
    exact ⟨‹_›, h.symm⟩
  · nomatch h

/-- A halted step takes the interrupt, wakes, or only passes a cycle. -/
theorem haltedStep_next (s t : State) (h : s.haltedStep = .next t) :
    (s.interruptRecognised = true ∧ s.tick.dbcnt = 0 ∧ t = s.tick.forcedJms) ∨ t = s.tick.wake ∨ t = s.tick := by
  unfold State.haltedStep at h
  split at h
  · exact .inl ⟨‹_›, interruptEntry_next _ _ h⟩
  · split at h
    · injection h with h
      exact .inr (.inl h.symm)
    · split at h
      · split at h
        · injection h with h
          exact .inr (.inr h.symm)
        · injection h with h
          exact .inr (.inl h.symm)
      · injection h with h
        exact .inr (.inr h.symm)

/-! ### Memory -/

/-- A character is stored as a cell that the canonical form allows. -/
theorem cellAllowed_char (l : Loc) (v : Nibble) : cellAllowed (l.key, v.setWidth 8) := by
  refine ⟨l.key_bounds.1, fun _ => ?_⟩
  have := v.isLt
  simp only [BitVec.toNat_setWidth]
  omega

/-- A word in a word space is a cell that the canonical form allows. -/
theorem cellAllowed_word (l : Loc) (h : l.isChar = false) (v : Byte) : cellAllowed (l.key, v) := by
  refine ⟨l.key_bounds.1, fun hk => ?_⟩
  have := l.key_bounds.2.2 hk
  simp_all

/-- Storing a character keeps the canonical form. -/
theorem store_wf (s : State) (h : s.mem.wf) (l : Loc) (v : Nibble) : (s.store l v).mem.wf := by
  simp only [store_mem]
  split
  · exact Memory.wf_write h (cellAllowed_char l v)
  · exact h

@[simp] theorem low_setWidth (v : Nibble) : Byte.low (v.setWidth 8) = v := by
  simp [Byte.low]

/-- A populated character reads back what was stored. -/
theorem load_store_same (s : State) (h : s.mem.wf) (l : Loc) (v : Nibble) (hp : isPopulated s.plat l = true) :
    (s.store l v).load l = v := by
  simp [State.load, hp, Memory.read_write_same h.1]

/-- A store leaves every other byte alone. -/
theorem read_store_other (s : State) (h : s.mem.wf) (l : Loc) (v : Nibble) {k : Nat} (hk : k ≠ l.key) :
    (s.store l v).mem.read k = s.mem.read k := by
  simp only [store_mem]
  split
  · exact Memory.read_write_other h.1 hk _
  · rfl

/-- A store changes only memory. -/
theorem store_onlyChanges (s : State) (l : Loc) (v : Nibble) : OnlyChanges [.mem] s (s.store l v) := by
  intro p hp
  cases p <;> simp_all [Unchanged, State.reg]

/-- The value of the extra address lines stands in a port latch, so a write of a word leaves it alone. -/
theorem extraLines_write_word {s t : State} (h : s.mem.wf) {l : Loc} (hl : l.isChar = false) (v : Byte)
    (hp : t.plat = s.plat) (hm : t.mem = s.mem.write l.key v) : t.extraLines = s.extraLines := by
  have other : ∀ l' : Loc, l'.isChar = true → t.mem.read l'.key = s.mem.read l'.key := fun l' hl' => by
    have hne : l'.key ≠ l.key := fun he => by
      have h1 := l.key_bounds.2
      have h2 := l'.key_bounds.2
      rw [he] at h2
      simp_all
    rw [hm, Memory.read_write_other h.1 hne]
  unfold State.extraLines
  rw [hp]
  split
  · rfl
  · rw [State.ramPortOutputs, other _ rfl, State.ramPortOutputs]
  · rw [State.romPortOutputs, other _ rfl, hp, State.romPortOutputs]

/-! ### The fetch map (20_memory.md R72) -/

theorem regionCovers_iff (r : FetchRegion) (bank : BitVec 1) (a : Addr) :
    regionCovers r bank a = true ↔ Covers r bank a := by
  simp [regionCovers, and_assoc]

/-- No page answers exactly the addresses that no region covers. -/
theorem fetchPage_eq_none_iff (m : List FetchRegion) (bank : BitVec 1) (a : Addr) :
    fetchPage m bank a = none ↔ ∀ r ∈ m, ¬Covers r bank a := by
  induction m with
  | nil => simp [fetchPage]
  | cons r m ih => by_cases h : regionCovers r bank a <;> simp [fetchPage, h, ih, ← regionCovers_iff]

/-- The regions before one that covers the address decide if one of them covers it. -/
theorem fetchPage_append (m n : List FetchRegion) (bank : BitVec 1) (a : Addr) :
    fetchPage (m ++ n) bank a = (fetchPage m bank a).or (fetchPage n bank a) := by
  induction m with
  | nil => simp [fetchPage]
  | cons r m ih => by_cases h : regionCovers r bank a <;> simp [fetchPage, h, ih]

/-! ### Halves of a word -/

@[simp] theorem high_append (a b : Nibble) : Byte.high (a ++ b) = a := by
  revert a b
  decide

@[simp] theorem low_append (a b : Nibble) : Byte.low (a ++ b) = b := by
  revert a b
  decide

@[simp] theorem high_append_low (w : Byte) : w.high ++ w.low = w := by
  revert w
  decide

@[simp] theorem halfOf_withHalf (high : Bool) (w : Byte) (v : Nibble) : halfOf high (withHalf high w v) = v := by
  cases high <;> simp [halfOf, withHalf]

@[simp] theorem halfOf_not_withHalf (high : Bool) (w : Byte) (v : Nibble) :
    halfOf (!high) (withHalf high w v) = halfOf (!high) w := by
  cases high <;> simp [halfOf, withHalf]

@[simp] theorem toggle_toggle (f : Half) : f.toggle.toggle = f := by cases f <;> rfl

end Sys2Proof.Machine
end

