-- ==== Sys2Proof/Laws/Operands.lean ====
section
/-! SUPPORT. Index registers and pairs, and what the last SRC selected. -/
namespace Sys2Proof.Machine

/-! ### Index registers -/

theorem fileGet_fileSet (f : Vector Nibble 8) (i j : BitVec 3) (v : Nibble) :
    fileGet (fileSet f i v) j = if j = i then v else fileGet f j := by
  simp [fileGet, fileSet, Vector.getElem_set, BitVec.toNat_inj, eq_comm]

/-- The register an address names, by its bits. -/
theorem regName_eq (s : State) (r : Nibble) :
    s.regName r =
      if r[3] then .shared (regIndex r) else if s.rbs then .bank1 (regIndex r) else .bank0 (regIndex r) := by
  have h : (8 ≤ r.toNat ↔ r[3] = true) ∧ (8 ≤ r.toNat → BitVec.ofNat 3 (r.toNat - 8) = regIndex r) ∧
      BitVec.ofNat 3 r.toNat = regIndex r := by
    revert r
    decide
  obtain ⟨h8, hs, hb⟩ := h
  unfold State.regName
  by_cases h : 8 ≤ r.toNat
  · rw [if_pos h, if_pos (h8.1 h), hs h]
  · rw [if_neg h, if_neg (fun g => h (h8.2 g)), hb]

/-- `x[r]` is the content of the register that r names. -/
theorem x_eq_reg (s : State) (r : Nibble) : s.x r = s.reg (s.regName r) := by
  rw [regName_eq]
  unfold State.x
  split
  · rfl
  · split <;> rfl

/-- Writing `x[r]` writes the register that r names and no other. -/
theorem reg_setX (s : State) (r v : Nibble) (q : RegName) :
    (s.setX r v).reg q = if q = s.regName r then v else s.reg q := by
  rw [regName_eq]
  cases q <;> cases hr : r[3] <;> cases hb : s.rbs <;> simp [State.reg, hr, hb, fileGet_fileSet]

@[simp] theorem regName_setX (s : State) (r v r' : Nibble) : (s.setX r v).regName r' = s.regName r' := rfl

@[simp] theorem regName_setXp (s : State) (p : PairAddr) (v : Byte) (r : Nibble) :
    (s.setXp p v).regName r = s.regName r := rfl

@[simp] theorem x_setX_same (s : State) (r v : Nibble) : (s.setX r v).x r = v := by
  simp [x_eq_reg, reg_setX]

/-- Two addresses name the same register only if they are equal. -/
theorem regName_inj (s : State) {r r' : Nibble} (h : s.regName r = s.regName r') : r = r' := by
  rw [regName_eq, regName_eq] at h
  have key : ∀ r r' : Nibble, r[3] = r'[3] → regIndex r = regIndex r' → r = r' := by decide
  apply key <;> revert h <;> cases r[3] <;> cases r'[3] <;> cases s.rbs <;> simp

theorem x_setX (s : State) (r v r' : Nibble) : (s.setX r v).x r' = if r' = r then v else s.x r' := by
  rw [x_eq_reg, reg_setX, regName_setX, x_eq_reg]
  by_cases h : r' = r
  · simp [h]
  · rw [if_neg h, if_neg fun g => h (regName_inj s g)]

/-! ### Pairs -/

theorem evenName_eq (s : State) (p : PairAddr) : s.evenName p = s.regName (evenOf p) := by
  have h : BitVec.ofNat 4 (2 * p.toNat) = evenOf p := by
    revert p
    decide
  rw [State.evenName, h]

theorem oddName_eq (s : State) (p : PairAddr) : s.oddName p = s.regName (oddOf p) := by
  have h : BitVec.ofNat 4 (2 * p.toNat + 1) = oddOf p := by
    revert p
    decide
  rw [State.oddName, h]

/-- `xp[p]` is the content of the two registers that p names. -/
theorem xp_eq_pairValue (s : State) (p : PairAddr) : s.xp p = s.pairValue p := by
  rw [State.xp, State.pairValue, evenName_eq, oddName_eq, x_eq_reg, x_eq_reg]

theorem evenOf_ne_oddOf (p : PairAddr) : evenOf p ≠ oddOf p := by
  revert p
  decide

/-- A pair holds what was written to it. -/
@[simp] theorem xp_setXp (s : State) (p : PairAddr) (v : Byte) : (s.setXp p v).xp p = v := by
  have h := evenOf_ne_oddOf p
  simp [State.xp, State.setXp, x_setX, h]

/-- Writing a pair writes its two registers and no other. -/
theorem reg_setXp (s : State) (p : PairAddr) (v : Byte) (q : RegName) :
    (s.setXp p v).reg q = if q = s.oddName p then v.low else if q = s.evenName p then v.high else s.reg q := by
  simp [State.setXp, reg_setX, evenName_eq, oddName_eq]

theorem evenName_ne_oddName (s : State) (p : PairAddr) : s.evenName p ≠ s.oddName p := by
  rw [evenName_eq, oddName_eq]
  exact fun h => evenOf_ne_oddOf p (regName_inj s h)

/-! ### What the last SRC selected -/

/-- The codes that select storage of their own (20_memory.md R68): those of at most one line, all eight where the
platform decodes the lines. -/
theorem ramCodeUsable_iff (p : Platform) (code : BitVec 3) :
    ramCodeUsable p code = true ↔
      p.ramCodesDecoded = true ∨ code ∈ [0b000#3, 0b001#3, 0b010#3, 0b100#3] := by
  simp [ramCodeUsable, or_assoc]

/-- A valid RAM selection gives its fields. -/
theorem ramSel_of_selected {s : State} {chip reg : BitVec 2} {ch : Nibble} (h : RamSelected s chip reg ch) :
    s.ramSel = .ok { code := s.cm, chip := chip, reg := reg, ch := ch } := by
  obtain ⟨⟨rb, hs⟩, hu⟩ := h
  rw [← ramCodeUsable_iff] at hu
  have key : ∀ (chip reg : BitVec 2) (ch : Nibble),
      (chip ++ reg ++ ch).extractLsb' 6 2 = chip ∧ (chip ++ reg ++ ch).extractLsb' 4 2 = reg ∧
        (chip ++ reg ++ ch).setWidth 4 = ch := by decide
  obtain ⟨h1, h2, h3⟩ := key chip reg ch
  simp [State.ramSel, hs, hu, ramFields, h1, h2, h3]

/-- The RAM side has a selection exactly when one is valid; its code is the present one. -/
theorem ramSel_ok {s : State} {a : RamSel} (h : s.ramSel = .ok a) :
    a.code = s.cm ∧ RamSelected s a.chip a.reg a.ch := by
  unfold State.ramSel at h
  split at h
  · nomatch h
  · rename_i l hl
    split at h
    · rename_i hcm
      split at h
      · rename_i hu
        injection h with h
        subst h
        have key : ∀ b : Byte, b.extractLsb' 6 2 ++ b.extractLsb' 4 2 ++ b.setWidth 4 = b := by decide
        refine ⟨rfl, ⟨l.rb, ?_⟩, (ramCodeUsable_iff _ _).1 hu⟩
        simp only [ramFields, key]
        rw [hl]
        cases l
        simp_all
      · nomatch h
    · nomatch h

/-- A valid ROM side selection gives its address. -/
theorem romAddr_of_selected {s : State} {addr : Byte} (h : RomSelected s addr) : s.romAddr = .ok addr := by
  obtain ⟨cm, hs⟩ := h
  simp [State.romAddr, hs]

theorem romAddr_ok {s : State} {addr : Byte} (h : s.romAddr = .ok addr) : RomSelected s addr := by
  unfold State.romAddr at h
  split at h
  · nomatch h
  · rename_i l hl
    split at h
    · rename_i hrb
      injection h with h
      refine ⟨l.cm, ?_⟩
      rw [hl]
      cases l
      simp_all
    · nomatch h

/-- A valid program RAM selection gives its word. -/
theorem pramSel_of_selected {s : State} {addr : Byte} (h : PramSelected s addr) :
    s.pramSel = .ok (.pram s.extraLines addr) := by
  obtain ⟨hr, h4, hp⟩ := h
  simp [State.pramSel, romAddr_of_selected hr, h4, hp]

theorem pramSel_ok {s : State} {l : Loc} (h : s.pramSel = .ok l) :
    ∃ addr, l = .pram s.extraLines addr ∧ PramSelected s addr := by
  unfold State.pramSel at h
  split at h
  · split at h
    · nomatch h
    · rename_i addr hr
      split at h
      · injection h with h
        exact ⟨addr, h.symm, romAddr_ok hr, ‹_›, ‹_›⟩
      · nomatch h
  · nomatch h

/-- An action on the RAM selection happens exactly when there is one. -/
theorem onRam_next {s t : State} {act : RamSel → State} (h : s.onRam act = .next t) :
    ∃ a, s.ramSel = .ok a ∧ t = act a := by
  unfold State.onRam at h
  split at h
  · nomatch h
  · injection h with h
    exact ⟨_, ‹_›, h.symm⟩

theorem onRam_of_selected {s : State} {chip reg : BitVec 2} {ch : Nibble} (h : RamSelected s chip reg ch)
    (act : RamSel → State) : s.onRam act = .next (act { code := s.cm, chip := chip, reg := reg, ch := ch }) := by
  simp [State.onRam, ramSel_of_selected h]

/-- An action on the ROM port selection happens exactly when there is one. -/
theorem onRomPort_next {s t : State} {act : BitVec 1 → Nibble → State} (h : s.onRomPort act = .next t) :
    ∃ addr, s.romAddr = .ok addr ∧ t = act s.romb addr.high := by
  unfold State.onRomPort at h
  split at h
  · nomatch h
  · injection h with h
    exact ⟨_, ‹_›, h.symm⟩

theorem onRomPort_of_selected {s : State} {addr : Byte} (h : RomSelected s addr) (act : BitVec 1 → Nibble → State) :
    s.onRomPort act = .next (act s.romb addr.high) := by
  simp [State.onRomPort, romAddr_of_selected h]

end Sys2Proof.Machine
end

