-- ==== Sys2Proof/Laws/PerInstr.lean ====
section
/-! SUPPORT. Families of statements about every instruction, one lemma per constructor. -/
namespace Sys2Proof.Laws

/-- The encoder writes a well-formed list of words: of the length that its first word selects, the first word
assigned (30_encoding.md R90, R93, R101). -/
def EncodingWellFormed.Statement (i : Instr) : Prop := wordsWellFormed (encode i) = true

theorem EncodingWellFormed.nop : EncodingWellFormed.Statement .nop := rfl
theorem EncodingWellFormed.hlt : EncodingWellFormed.Statement .hlt := rfl
theorem EncodingWellFormed.bbs : EncodingWellFormed.Statement .bbs := rfl
theorem EncodingWellFormed.lcr : EncodingWellFormed.Statement .lcr := rfl
theorem EncodingWellFormed.or4 : EncodingWellFormed.Statement .or4 := rfl
theorem EncodingWellFormed.or5 : EncodingWellFormed.Statement .or5 := rfl
theorem EncodingWellFormed.an6 : EncodingWellFormed.Statement .an6 := rfl
theorem EncodingWellFormed.an7 : EncodingWellFormed.Statement .an7 := rfl
theorem EncodingWellFormed.db0 : EncodingWellFormed.Statement .db0 := rfl
theorem EncodingWellFormed.db1 : EncodingWellFormed.Statement .db1 := rfl
theorem EncodingWellFormed.sb0 : EncodingWellFormed.Statement .sb0 := rfl
theorem EncodingWellFormed.sb1 : EncodingWellFormed.Statement .sb1 := rfl
theorem EncodingWellFormed.ein : EncodingWellFormed.Statement .ein := rfl
theorem EncodingWellFormed.din : EncodingWellFormed.Statement .din := rfl
theorem EncodingWellFormed.rpm : EncodingWellFormed.Statement .rpm := rfl
theorem EncodingWellFormed.jcn (c : Nibble) (a8 : Byte) : EncodingWellFormed.Statement (.jcn c a8) := by
  have h : ∀ v : Nibble, isTwoWord (word4 0x1#4 v) = true := by decide
  exact h _
theorem EncodingWellFormed.fim (p : PairAddr) (d8 : Byte) : EncodingWellFormed.Statement (.fim p d8) := by
  have h : ∀ v : PairAddr, isTwoWord (wordPair 0x2#4 v 0#1) = true := by decide
  exact h _
theorem EncodingWellFormed.src (p : PairAddr) : EncodingWellFormed.Statement (.src p) := by
  unfold EncodingWellFormed.Statement
  revert p
  decide
theorem EncodingWellFormed.fin (p : PairAddr) : EncodingWellFormed.Statement (.fin p) := by
  unfold EncodingWellFormed.Statement
  revert p
  decide
theorem EncodingWellFormed.jin (p : PairAddr) : EncodingWellFormed.Statement (.jin p) := by
  unfold EncodingWellFormed.Statement
  revert p
  decide
theorem EncodingWellFormed.jun (a12 : Addr) : EncodingWellFormed.Statement (.jun a12) := by
  have h : ∀ opa : Nibble, isTwoWord (word4 0x4#4 opa) = true := by decide
  exact h _
theorem EncodingWellFormed.jms (a12 : Addr) : EncodingWellFormed.Statement (.jms a12) := by
  have h : ∀ opa : Nibble, isTwoWord (word4 0x5#4 opa) = true := by decide
  exact h _
theorem EncodingWellFormed.inc (r : Nibble) : EncodingWellFormed.Statement (.inc r) := by
  unfold EncodingWellFormed.Statement
  revert r
  decide
theorem EncodingWellFormed.isz (r : Nibble) (a8 : Byte) : EncodingWellFormed.Statement (.isz r a8) := by
  have h : ∀ v : Nibble, isTwoWord (word4 0x7#4 v) = true := by decide
  exact h _
theorem EncodingWellFormed.add (r : Nibble) : EncodingWellFormed.Statement (.add r) := by
  unfold EncodingWellFormed.Statement
  revert r
  decide
theorem EncodingWellFormed.sub (r : Nibble) : EncodingWellFormed.Statement (.sub r) := by
  unfold EncodingWellFormed.Statement
  revert r
  decide
theorem EncodingWellFormed.ld (r : Nibble) : EncodingWellFormed.Statement (.ld r) := by
  unfold EncodingWellFormed.Statement
  revert r
  decide
theorem EncodingWellFormed.xch (r : Nibble) : EncodingWellFormed.Statement (.xch r) := by
  unfold EncodingWellFormed.Statement
  revert r
  decide
theorem EncodingWellFormed.bbl (d : Nibble) : EncodingWellFormed.Statement (.bbl d) := by
  unfold EncodingWellFormed.Statement
  revert d
  decide
theorem EncodingWellFormed.ldm (d : Nibble) : EncodingWellFormed.Statement (.ldm d) := by
  unfold EncodingWellFormed.Statement
  revert d
  decide
theorem EncodingWellFormed.wrm : EncodingWellFormed.Statement .wrm := rfl
theorem EncodingWellFormed.wmp : EncodingWellFormed.Statement .wmp := rfl
theorem EncodingWellFormed.wrr : EncodingWellFormed.Statement .wrr := rfl
theorem EncodingWellFormed.wpm : EncodingWellFormed.Statement .wpm := rfl
theorem EncodingWellFormed.wr0 : EncodingWellFormed.Statement .wr0 := rfl
theorem EncodingWellFormed.wr1 : EncodingWellFormed.Statement .wr1 := rfl
theorem EncodingWellFormed.wr2 : EncodingWellFormed.Statement .wr2 := rfl
theorem EncodingWellFormed.wr3 : EncodingWellFormed.Statement .wr3 := rfl
theorem EncodingWellFormed.sbm : EncodingWellFormed.Statement .sbm := rfl
theorem EncodingWellFormed.rdm : EncodingWellFormed.Statement .rdm := rfl
theorem EncodingWellFormed.rdr : EncodingWellFormed.Statement .rdr := rfl
theorem EncodingWellFormed.adm : EncodingWellFormed.Statement .adm := rfl
theorem EncodingWellFormed.rd0 : EncodingWellFormed.Statement .rd0 := rfl
theorem EncodingWellFormed.rd1 : EncodingWellFormed.Statement .rd1 := rfl
theorem EncodingWellFormed.rd2 : EncodingWellFormed.Statement .rd2 := rfl
theorem EncodingWellFormed.rd3 : EncodingWellFormed.Statement .rd3 := rfl
theorem EncodingWellFormed.clb : EncodingWellFormed.Statement .clb := rfl
theorem EncodingWellFormed.clc : EncodingWellFormed.Statement .clc := rfl
theorem EncodingWellFormed.iac : EncodingWellFormed.Statement .iac := rfl
theorem EncodingWellFormed.cmc : EncodingWellFormed.Statement .cmc := rfl
theorem EncodingWellFormed.cma : EncodingWellFormed.Statement .cma := rfl
theorem EncodingWellFormed.ral : EncodingWellFormed.Statement .ral := rfl
theorem EncodingWellFormed.rar : EncodingWellFormed.Statement .rar := rfl
theorem EncodingWellFormed.tcc : EncodingWellFormed.Statement .tcc := rfl
theorem EncodingWellFormed.dac : EncodingWellFormed.Statement .dac := rfl
theorem EncodingWellFormed.tcs : EncodingWellFormed.Statement .tcs := rfl
theorem EncodingWellFormed.stc : EncodingWellFormed.Statement .stc := rfl
theorem EncodingWellFormed.daa : EncodingWellFormed.Statement .daa := rfl
theorem EncodingWellFormed.kbp : EncodingWellFormed.Statement .kbp := rfl
theorem EncodingWellFormed.dcl : EncodingWellFormed.Statement .dcl := rfl

end Sys2Proof.Laws
end

