-- ==== Sys2Proof/Laws/Step.lean ====
section
/-! SUPPORT. What a fetch and a step can do, said once. -/
namespace Sys2Proof.Machine

/-- A chain of outcomes has a result exactly when both links have. -/
theorem andThen_next {o : Host.Outcome α Fault Refusal} {f : α → Host.Outcome β Fault Refusal} {b : β}
    (h : andThen o f = .next b) : ∃ a, o = .next a ∧ f a = .next b := by
  unfold andThen at h
  split at h
  · exact ⟨_, rfl, h⟩
  · nomatch h
  · nomatch h

@[simp] theorem andThen_of_next (a : α) (f : α → Host.Outcome β Fault Refusal) : andThen (.next a) f = f a := rfl
@[simp] theorem andThen_of_fault (e : Fault) (f : α → Host.Outcome β Fault Refusal) :
    andThen (.fault e) f = .fault e := rfl
@[simp] theorem andThen_of_refused (e : Refusal) (f : α → Host.Outcome β Fault Refusal) :
    andThen (.refused e) f = .refused e := rfl

/-- The state after one fetch: a cycle has passed and the program counter is one further. -/
def State.fetched (s : State) : State := s.tick.setPc (s.pc + 1)

/-- A fetch reads a populated location and advances. -/
theorem fetchWord_next {s : State} {w : Byte} {t : State} (h : s.fetchWord = .next (w, t)) :
    isPopulated s.plat (s.tick.programLoc s.pc) = true ∧ w = s.mem.read (s.tick.programLoc s.pc).key ∧ t = s.fetched := by
  simp only [State.fetchWord, tick_pc] at h
  split at h
  · injection h with h
    obtain ⟨h1, h2⟩ := Prod.mk.inj h
    exact ⟨‹_›, h1.symm, h2.symm⟩
  · nomatch h

theorem fetchWord_of_populated {s : State} (h : isPopulated s.plat (s.tick.programLoc s.pc) = true) :
    s.fetchWord = .next (s.mem.read (s.tick.programLoc s.pc).key, s.fetched) := by
  simp [State.fetchWord, h, State.fetched]

/-- Fetching an instruction makes one fetch or two. -/
theorem fetchInstr_next {s : State} {i : Instr} {t : State} (h : s.fetchInstr = .next (i, t)) :
    t = s.fetched ∨ t = s.fetched.fetched := by
  obtain ⟨⟨ws, u⟩, hw, hd⟩ := andThen_next h
  obtain ⟨⟨w1, t1⟩, h1, h2⟩ := andThen_next hw
  have ht1 := (fetchWord_next h1).2.2
  have htu : t = u := by
    simp only at hd
    split at hd
    · injection hd with hd
      exact (Prod.mk.inj hd).2.symm
    all_goals nomatch hd
  subst htu
  simp only at h2
  split at h2
  · obtain ⟨⟨w2, t2⟩, h3, h4⟩ := andThen_next h2
    have ht2 := (fetchWord_next h3).2.2
    injection h4 with h4
    exact .inr ((Prod.mk.inj h4).2.symm.trans (ht2.trans (congrArg State.fetched ht1)))
  · injection h2 with h2
    exact .inl ((Prod.mk.inj h2).2.symm.trans ht1)

/-- A fetch changes the program counter and the ROM bank delay, nothing else. -/
theorem fetched_onlyChanges (s : State) : OnlyChanges [.pc, .romb, .dbcnt] s s.fetched := by
  intro p hp
  cases p <;> simp_all [Unchanged, State.fetched, State.reg]
  intro i hi
  exact Vector.getElem_set_ne _ _ fun h => hi h.symm

/-- A step is a reset, a halted step, an interrupt entry or an instruction, on the present inputs. -/
theorem step_next {s t : State} (h : step s = .next t) :
    ∃ u, t = u.advance ∧
      ((s.pins.resetIn = true ∧ u = s.resetEvent) ∨
        (s.pins.resetIn = false ∧ s.halt = true ∧ s.haltedStep = .next u) ∨
        (s.pins.resetIn = false ∧ s.halt = false ∧ s.pins.stopCtl = false ∧ s.interruptRecognised = true ∧
          s.dbcnt = 0 ∧ u = s.forcedJms) ∨
        (s.runs ∧ ∃ i f, s.fetchInstr = .next (i, f) ∧ exec i f = .next u)) := by
  obtain ⟨u, hu, ht⟩ := andThen_next h
  injection ht with ht
  refine ⟨u, ht.symm, ?_⟩
  unfold State.machineStep at hu
  split at hu
  · injection hu with hu
    exact .inl ⟨‹_›, hu.symm⟩
  · rename_i hr
    have hr := Bool.eq_false_iff.2 hr
    split at hu
    · exact .inr (.inl ⟨hr, ‹_›, hu⟩)
    · rename_i hh
      have hh := Bool.eq_false_iff.2 hh
      split at hu
      · nomatch hu
      · rename_i hs
        have hs := Bool.eq_false_iff.2 hs
        split at hu
        · obtain ⟨hd, he⟩ := interruptEntry_next _ _ hu
          exact .inr (.inr (.inl ⟨hr, hh, hs, ‹_›, hd, he⟩))
        · rename_i hi
          obtain ⟨⟨i, f⟩, hf, he⟩ := andThen_next hu
          exact .inr (.inr (.inr ⟨⟨hr, hh, hs, Bool.eq_false_iff.2 hi⟩, i, f, hf, he⟩))

end Sys2Proof.Machine
end

