-- ==== Sys2Proof/Tests/Slice0.lean ====
section
/-! SUPPORT. Tests: ill-formed words refused, words written out from the encoding tables, one step per instruction
with the expected values of 95_test_vectors.md, and a witness for the hypotheses of every statement that has any. -/
namespace Sys2Proof.Tests
open Sys2Proof.Machine

/-! ### Ill-formed words (95_test_vectors.md section 2.7) -/

theorem test_wellFormed_refuses_no_word : wordsWellFormed [] = false := by decide
theorem test_wellFormed_refuses_unassigned_0F : wordsWellFormed [0x0F] = false := by decide
theorem test_wellFormed_refuses_unassigned_FE : wordsWellFormed [0xFE] = false := by decide
theorem test_wellFormed_refuses_unassigned_FF : wordsWellFormed [0xFF] = false := by decide
theorem test_wellFormed_refuses_missing_second_word : wordsWellFormed [0x40] = false := by decide
theorem test_wellFormed_refuses_word_left_over : wordsWellFormed [0x00, 0x00] = false := by decide
theorem test_wellFormed_refuses_three_words : wordsWellFormed [0x40, 0x00, 0x00] = false := by decide
theorem test_wellFormed_accepts : wordsWellFormed [0xFD] = true ∧ wordsWellFormed [0x20, 0xFF] = true := by decide
theorem test_decode_refuses_unassigned : decode [0x0F, 0x00] = .invalid (.unassigned 0x0F) := by decide
theorem test_decode_refuses_missing_word : decode [0x71] = .invalid (.secondWordMissing 0x71) := by decide
theorem test_decode_refuses_no_word : decode [] = .invalid .noWord := by decide

/-! ### Words written out bit by bit from 30_encoding.md, one for every constructor -/

/-- The instructions that single words decode to. -/
def decodedWords (ws : List Byte) : List Decoded := ws.map fun w => decode [w]

/-- Decodings with no word left over. -/
def whole (is : List Instr) : List Decoded := is.map fun i => .ok i []

theorem test_decode_group0 :
    decodedWords [0b00000000, 0b00000001, 0b00000010, 0b00000011, 0b00000100, 0b00000101, 0b00000110, 0b00000111,
      0b00001000, 0b00001001, 0b00001010, 0b00001011, 0b00001100, 0b00001101, 0b00001110] =
    whole [.nop, .hlt, .bbs, .lcr, .or4, .or5, .an6, .an7, .db0, .db1, .sb0, .sb1, .ein, .din, .rpm] := by decide
theorem test_decode_groupE :
    decodedWords [0b11100000, 0b11100001, 0b11100010, 0b11100011, 0b11100100, 0b11100101, 0b11100110, 0b11100111,
      0b11101000, 0b11101001, 0b11101010, 0b11101011, 0b11101100, 0b11101101, 0b11101110, 0b11101111] =
    whole [.wrm, .wmp, .wrr, .wpm, .wr0, .wr1, .wr2, .wr3, .sbm, .rdm, .rdr, .adm, .rd0, .rd1, .rd2, .rd3] := by
  decide
theorem test_decode_groupF :
    decodedWords [0b11110000, 0b11110001, 0b11110010, 0b11110011, 0b11110100, 0b11110101, 0b11110110, 0b11110111,
      0b11111000, 0b11111001, 0b11111010, 0b11111011, 0b11111100, 0b11111101] =
    whole [.clb, .clc, .iac, .cmc, .cma, .ral, .rar, .tcc, .dac, .tcs, .stc, .daa, .kbp, .dcl] := by decide
theorem test_decode_register :
    decodedWords [0b01100101, 0b10000010, 0b10010001, 0b10100011, 0b10111110, 0b11000011, 0b11011001] =
    whole [.inc 5, .add 2, .sub 1, .ld 3, .xch 14, .bbl 3, .ldm 9] := by decide
theorem test_decode_pair :
    decodedWords [0b00100011, 0b00110110, 0b00110101, 0b00111110, 0b00111111] =
    whole [.src 1, .fin 3, .jin 2, .fin 7, .jin 7] := by decide
theorem test_decode_jcn : decode [0b00010110, 0b01000000] = .ok (.jcn 0b0110 0x40) [] := by decide
theorem test_decode_fim : decode [0b00100100, 0b01101011] = .ok (.fim 2 0x6B) [] := by decide
theorem test_decode_jun : decode [0b01000011, 0b00100001] = .ok (.jun 0x321) [] := by decide
theorem test_decode_jms : decode [0b01010010, 0b00000101] = .ok (.jms 0x205) [] := by decide
theorem test_decode_isz : decode [0b01111010, 0b00000100] = .ok (.isz 10 0x04) [] := by decide
/-- A two-word row by its number: the first word in bits 15:8, or in bits 7:0 (log 29). -/
theorem test_decodeTableWord :
    decodeTableWord 16 0x4321 = some (.jun 0x321) ∧ decodeTableWord 16 0x2143 = some (.jun 0x321) ∧
      decodeTableWord 8 0x85 = some (.add 5) ∧ decodeTableWord 8 0x0F = none := by decide

/-! ### One step on a small state -/

/-- The state after reset. -/
def base : State := State.reset

/-- What a step leaves, seen through `f`; none if it stops. -/
def seen (o : Result) (f : State → α) : Option α :=
  match o with
  | .next t => some (f t)
  | _ => none

/-- A step of the two words placed at an address. -/
def runAt (pc : Addr) (w1 w2 : Byte) (s : State) : Result := step ((s.setPc pc).placeWords w1 w2)

/-- A step of one word placed at address 0. -/
def run1 (w : Byte) (s : State) : Result := runAt 0 w 0 s

/-- An input sample with these events and test level, all port lines at 0. -/
def sample (resetIn intReq stopCtl test : Bool) : Pins := ⟨resetIn, intReq, stopCtl, test, .replicate 32 0⟩

/-- The common start of section 2.4: SRC has sent 0x6B under `CR` = 0000, `ROMB` = 0. -/
def selected : State := { base with sel := some ⟨0x6B, 0, 0⟩ }

/-- That state with a character at its RAM location. -/
def withChar (v : Byte) : State := { selected with mem := selected.mem.write (Loc.ramm 0 1 2 11).key v }

/-- Accumulator and carry after a step of one word. -/
def accCy (w : Byte) (acc : Nibble) (cy : Bool) : Option (Nibble × Bool) :=
  seen (run1 w { base with acc := acc, cy := cy }) fun t => (t.acc, t.cy)

-- section 2.1
theorem test_nop : seen (runAt 0x010 0x00 0 base) (fun t => t.pc) = some 0x011 := by decide
theorem test_ldm : accCy 0xDB 3 true = some (0xB, true) := by decide
theorem test_ld : seen (run1 0xA9 (base.setX 9 6)) (fun t => (t.acc, t.x 9)) = some (6, 6) := by decide
theorem test_xch : seen (run1 0xBE { base.setX 14 0xD with acc := 2 }) (fun t => (t.acc, t.x 14)) = some (0xD, 2) := by
  decide
theorem test_inc_wraps : seen (run1 0x67 (base.setX 7 0xF)) (fun t => (t.x 7, t.cy)) = some (0, false) := by decide
theorem test_inc : seen (run1 0x67 { base.setX 7 4 with cy := true }) (fun t => (t.x 7, t.cy)) = some (5, true) := by
  decide
theorem test_bbl : seen (runAt 0x300 0xC9 0 { base with sp := 2, stk := base.stk.set 1 0x1A4 })
    (fun t => (t.sp, t.pc, t.acc)) = some (1, 0x1A4, 9) := by decide
theorem test_bbl_wraps : seen (runAt 0 0xC0 0 { base with stk := base.stk.set 7 0x055 })
    (fun t => (t.sp, t.pc)) = some (7, 0x055) := by decide
theorem test_jin_last_word_of_page : seen (runAt 0x2FF 0x33 0 (base.setXp 1 0x45)) (fun t => t.pc) = some 0x345 := by
  decide
theorem test_jin_last_word_of_bank : seen (runAt 0xFFF 0x31 0 (base.setXp 0 0x12)) (fun t => t.pc) = some 0x012 := by
  decide
theorem test_src : seen (run1 0x23 (base.setXp 1 0x6B)) (fun t => (t.srcr, t.sel)) =
    some (0x6B, some ⟨0x6B, 0, 0⟩) := by decide
theorem test_fin_last_word_of_page : seen (runAt 0x1FF 0x36 0
    { base.setXp 0 0x10 with mem := (base.mem.write (Loc.rom 0 0x210).key 0x5A).write (Loc.rom 0 0x110).key 0xEE })
    (fun t => (t.xp 3, t.pc)) = some (0x5A, 0x200) := by decide
theorem test_fin_into_pair_0 : seen (runAt 0x040 0x30 0
    { base.setXp 0 0x08 with mem := base.mem.write (Loc.rom 0 0x008).key 0x93 }) (fun t => t.xp 0) = some 0x93 := by
  decide
theorem test_add_max : seen (run1 0x85 { base.setX 5 0xF with acc := 0xF, cy := true }) (fun t => (t.acc, t.cy)) =
    some (0xF, true) := by decide
theorem test_add_carry : seen (run1 0x85 { base.setX 5 8 with acc := 8 }) (fun t => (t.acc, t.cy)) =
    some (0, true) := by decide
theorem test_sub_borrow : seen (run1 0x95 { base.setX 5 5 with acc := 3, cy := true }) (fun t => (t.acc, t.cy)) =
    some (0xD, false) := by decide
theorem test_sub_other_sense : seen (run1 0x95
    { base.setX 5 3 with acc := 5, plat := { base.plat with subCarryInComplemented := false } })
    (fun t => (t.acc, t.cy)) = some (1, true) := by decide

-- section 2.2
theorem test_hlt : seen (runAt 0x030 0x01 0 base) (fun t => (t.halt, t.stop, t.pc)) = some (true, true, 0x031) := by
  decide
theorem test_bbs : seen (runAt 0 0x02 0 { base with
      sp := 1, stk := base.stk.set 0 0x123, inta := true, rbs := true, srcr := 0x40, srcrLoaded := true })
    (fun t => (t.sp, t.pc, t.inta, t.rbs, t.sel)) = some (0, 0x123, false, false, some ⟨0x40, 0, 0⟩) := by decide
theorem test_lcr : seen (run1 0x03 { base with cr := 0b1010 }) (fun t => t.acc) = some 0xA := by decide
theorem test_or4_bank1 : seen (run1 0x04 { base with
      rbs := true, irb1 := base.irb1.set 4 0b0011, irb0 := base.irb0.set 4 0b1100, acc := 0b0100 })
    (fun t => t.acc) = some 0b0111 := by decide
theorem test_or5 : seen (run1 0x05 { base.setX 5 0b0001 with acc := 0b1000, cy := true }) (fun t => (t.acc, t.cy)) =
    some (0b1001, true) := by decide
theorem test_an6 : seen (run1 0x06 { base.setX 6 0b0100 with acc := 0b0111 }) (fun t => t.acc) = some 0b0100 := by
  decide
theorem test_an7 : seen (run1 0x07 { base.setX 7 0b0111 with acc := 0b1110 }) (fun t => t.acc) = some 0b0110 := by
  decide
theorem test_db0 : seen (run1 0x08 { base with cr := 0b1011, romb := 1 }) (fun t => (t.cr, t.romb, t.dbcnt)) =
    some (0b0011, 1, 3) := by decide
theorem test_db1 : seen (run1 0x09 base) (fun t => (t.cr, t.romb, t.dbcnt)) = some (0b1000, 0, 3) := by decide
theorem test_jun_second_word_before_bank_change : seen (runAt 1 0x41 0x23 { base with cr := 0b1000, dbcnt := 3 })
    (fun t => (t.pc, t.romb, t.dbcnt)) = some (0x123, 0, 1) := by decide
theorem test_fin_second_cycle_after_bank_change : seen (runAt 2 0x32 0 { base.setXp 0 0x10 with
      cr := 0b1000, dbcnt := 2, mem := base.mem.write (Loc.rom 1 0x010).key 0xA7 })
    (fun t => (t.xp 1, t.romb)) = some (0xA7, 1) := by decide
theorem test_sb0 : seen (run1 0x0A { base with rbs := true, irb0 := base.irb0.set 2 5 }) (fun t => (t.rbs, t.x 2)) =
    some (false, 5) := by decide
theorem test_sb1 : seen (run1 0x0B { base with irb1 := base.irb1.set 2 9, irs := base.irs.set 2 3 })
    (fun t => (t.x 2, t.x 10)) = some (9, 3) := by decide
theorem test_ein : seen (run1 0x0C base) (fun t => t.ie) = some true := by decide
theorem test_din : seen (run1 0x0D { base with ie := true }) (fun t => t.ie) = some false := by decide
theorem test_wpm_first : seen (run1 0xE3 { base with acc := 0xD, sel := some ⟨0x10, 0, 0⟩ })
    (fun t => (t.mem.read (Loc.pram 0 0x10).key, t.fl)) = some (0xD0, .last) := by decide
theorem test_wpm_last : seen (run1 0xE3 { base with
      acc := 5, fl := .last, sel := some ⟨0x10, 0, 0⟩, mem := base.mem.write (Loc.pram 0 0x10).key 0xD0 })
    (fun t => (t.mem.read (Loc.pram 0 0x10).key, t.fl)) = some (0xD5, .first) := by decide
theorem test_rpm : seen (run1 0x0E { base with
      sel := some ⟨0x10, 0, 0⟩, mem := base.mem.write (Loc.pram 0 0x10).key 0xD5 })
    (fun t => (t.acc, t.fl)) = some (0xD, .last) := by decide

-- section 2.3
theorem test_jun_top_of_bank : seen (runAt 0xFFE 0x40 0x05 base) (fun t => t.pc) = some 0x005 := by decide
theorem test_jms : seen (runAt 0x04E 0x52 0xC0 base) (fun t => (t.sp, t.stk[0], t.pc)) = some (1, 0x050, 0x2C0) := by
  decide
theorem test_jms_eighth : seen (runAt 0x700 0x50 0x80 { base with sp := 7 }) (fun t => (t.sp, t.stk[7], t.pc)) =
    some (0, 0x702, 0x080) := by decide
theorem test_isz_not_zero : seen (runAt 0x120 0x73 0x40 (base.setX 3 0xE)) (fun t => (t.x 3, t.pc)) =
    some (0xF, 0x140) := by decide
theorem test_isz_zero : seen (runAt 0x120 0x73 0x40 (base.setX 3 0xF)) (fun t => (t.x 3, t.pc)) =
    some (0, 0x122) := by decide
theorem test_fim : seen (runAt 0 0x2A 0x9C base) (fun t => (t.x 10, t.x 11)) = some (9, 0xC) := by decide
theorem test_jcn_words_255_0 : seen (runAt 0x1FF 0x14 0x40 { base with script := [sample false false false true] })
    (fun t => t.pc) = some 0x240 := by decide
theorem test_jcn_not_taken : seen (runAt 0x1FE 0x14 0x40 { base with acc := 1, script := [sample false false false true] })
    (fun t => t.pc) = some 0x200 := by decide
/-- The columns (0,0,0), (5,1,1) and (5,0,1) of the table. -/
theorem test_jcn_conditions :
    (List.range 16).map (fun c => jumps (BitVec.ofNat 4 c) 0 false false) =
        [false, true, false, true, true, true, true, true, true, false, true, false, false, false, false, false] ∧
      (List.range 16).map (fun c => jumps (BitVec.ofNat 4 c) 5 true true) =
        [false, false, true, true, false, false, true, true, true, true, false, false, true, true, false, false] ∧
      (List.range 16).map (fun c => jumps (BitVec.ofNat 4 c) 5 false true) =
        [false, false, false, false, false, false, false, false, true, true, true, true, true, true, true, true] := by
  decide

-- section 2.4
theorem test_wrm : seen (run1 0xE0 { selected with acc := 9 }) (fun t => t.mem.read (Loc.ramm 0 1 2 11).key) =
    some 9 := by decide
theorem test_rdm : seen (run1 0xE9 { withChar 9 with cy := true }) (fun t => (t.acc, t.cy)) = some (9, true) := by decide
theorem test_wr0 : seen (run1 0xE4 { selected with acc := 7 }) (fun t => t.mem.read (Loc.rams 0 1 2 0).key) =
    some 7 := by decide
theorem test_wr1 : seen (run1 0xE5 { base with acc := 1, sel := some ⟨0x35, 0, 0⟩ })
    (fun t => t.mem.read (Loc.rams 0 0 3 1).key) = some 1 := by decide
theorem test_wr2 : seen (run1 0xE6 { selected with acc := 3 }) (fun t => t.mem.read (Loc.rams 0 1 2 2).key) =
    some 3 := by decide
theorem test_wr3 : seen (run1 0xE7 { base with acc := 0xF, sel := some ⟨0x35, 0, 0⟩ })
    (fun t => t.mem.read (Loc.rams 0 0 3 3).key) = some 0xF := by decide
theorem test_rd0 : seen (run1 0xEC { selected with mem := selected.mem.write (Loc.rams 0 1 2 0).key 3 })
    (fun t => t.acc) = some 3 := by decide
theorem test_rd1 : seen (run1 0xED { selected with mem := selected.mem.write (Loc.rams 0 1 2 1).key 0xC })
    (fun t => t.acc) = some 0xC := by decide
theorem test_rd2 : seen (run1 0xEE { selected with mem := selected.mem.write (Loc.rams 0 1 2 2).key 5 })
    (fun t => t.acc) = some 5 := by decide
theorem test_rd3 : seen (run1 0xEF { selected with acc := 4 }) (fun t => t.acc) = some 0 := by decide
theorem test_wmp : seen (run1 0xE1 { selected with acc := 0xC }) (fun t => t.ramPortOutputs 0 1) = some 0xC := by decide
theorem test_wrr : seen (run1 0xE2 { selected with acc := 5 }) (fun t => t.mem.read (Loc.romPort 0 6).key) = some 5 := by
  decide
theorem test_rdr : seen (run1 0xEA { selected with
      script := [⟨false, false, false, false, (Vector.replicate 32 0).set 6 0b1010⟩] }) (fun t => t.acc) =
    some 0xA := by decide
/-- Section 1.11: a port with two lines coded as outputs. -/
theorem test_rdr_outputs : seen (run1 0xEA { selected with
      plat := { base.plat with
        romPortOutputMask := (Vector.replicate 32 0).set 6 0b0110
        romPortOutputReadback := (Vector.replicate 32 0).set 6 0b0110 }
      script := [⟨false, false, false, false, (Vector.replicate 32 0).set 6 0b1000⟩] }) (fun t => t.acc) =
    some 0b1110 := by decide
theorem test_adm : seen (run1 0xEB { withChar 9 with acc := 8, cy := true }) (fun t => (t.acc, t.cy)) =
    some (2, true) := by decide
theorem test_sbm : seen (run1 0xE8 { withChar 9 with acc := 3 }) (fun t => (t.acc, t.cy)) = some (0xA, false) := by
  decide
theorem test_sbm_no_borrow : seen (run1 0xE8 { withChar 3 with acc := 9 }) (fun t => (t.acc, t.cy)) =
    some (6, true) := by decide
theorem test_wrm_after_dcl_refused :
    exec .wrm { selected with cr := 0b0010 } = .refused .ramSelectionInvalid := rfl
theorem test_rdm_after_reset_refused : exec .rdm base = .refused .ramSelectionInvalid := rfl

-- section 2.5
theorem test_clb : accCy 0xF0 0xB true = some (0, false) := by decide
theorem test_clc : accCy 0xF1 0xA true = some (0xA, false) := by decide
theorem test_cmc : accCy 0xF3 0xA true = some (0xA, false) := by decide
theorem test_stc : accCy 0xFA 0xA false = some (0xA, true) := by decide
theorem test_iac : accCy 0xF2 0xF false = some (0, true) ∧ accCy 0xF2 7 true = some (8, false) := by decide
theorem test_dac : accCy 0xF8 0 true = some (0xF, false) ∧ accCy 0xF8 0xA true = some (9, true) := by decide
theorem test_ral : accCy 0xF5 0xA true = some (5, true) ∧ accCy 0xF5 8 false = some (0, true) := by decide
theorem test_rar : accCy 0xF6 0xA true = some (0xD, false) ∧ accCy 0xF6 7 true = some (0xB, true) := by decide
theorem test_cma : accCy 0xF4 0xA true = some (5, true) := by decide
theorem test_tcc : accCy 0xF7 0xA true = some (1, false) := by decide
theorem test_tcs : accCy 0xF9 7 true = some (0xA, false) ∧ accCy 0xF9 7 false = some (9, false) := by decide
theorem test_daa : accCy 0xFB 9 true = some (0xF, true) ∧ accCy 0xFB 0xA false = some (0, true) := by decide
theorem test_daa_no_change : accCy 0xFB 9 false = some (9, false) := by decide
theorem test_kbp : accCy 0xFC 4 true = some (3, true) ∧ accCy 0xFC 6 false = some (0xF, false) := by decide
theorem test_dcl : seen (run1 0xFD { base with acc := 0b1101, cr := 0b1000 }) (fun t => (t.cr, t.acc)) =
    some (0b1101, 0b1101) := by decide

-- section 2.6
/-- Running at 0x123 with interrupts enabled and bank 1 selected, a request present. -/
def requested : State :=
  { base.setPc 0x123 with ie := true, rbs := true, script := [sample false true false false] }

/-- Halted at 0x031, with these inputs. -/
def haltedWith (p : Pins) : State := { base.setPc 0x031 with halt := true, stop := true, script := [p] }

theorem test_interrupt_entry : seen (step requested) (fun t => (t.sp, t.stk[0], t.pc, t.inta, t.rbsSaved)) =
    some (1, 0x123, 0x003, true, true) := by decide
theorem test_interrupt_masked : seen (step { requested with ie := false }) (fun t => (t.pc, t.inta)) =
    some (0x124, false) := by decide
theorem test_interrupt_pending_refused :
    seen (step { requested with dbcnt := 2 }) (fun t => t.pc) = none := by decide
theorem test_halted_interrupt : seen (step { haltedWith (sample false true false false) with ie := true })
    (fun t => (t.halt, t.stop, t.stk[0], t.pc, t.inta)) = some (false, false, 0x031, 0x003, true) := by decide
theorem test_halted_stop_control : seen (step (haltedWith (sample false false true false)))
    (fun t => (t.halt, t.stop, t.pc)) = some (false, false, 0x031) := by decide
theorem test_halted_tick : seen (step { haltedWith (sample false false false false) with dbcnt := 1, cr := 0b1000 })
    (fun t => (t.halt, t.dbcnt, t.romb)) = some (true, 0, 1) := by decide
theorem test_warm_reset : seen (step { base with
      cr := 0b1011, rbs := true, sp := 5, halt := true, fl := .last, ie := true, script := [sample true false false false]
      mem := base.mem.write (Loc.ramm 0 0 0 0).key 7 })
    (fun t => (t.cr, t.rbs, t.pc, t.halt, t.fl, t.mem.read (Loc.ramm 0 0 0 0).key)) =
    some (0, false, 0, false, .first, 7) := by decide

/-! ### Placing an instruction, the opcode table's numbers -/

theorem test_withFetchWord_runs : seen (step (base.withFetchWord 8 0xD7)) (fun t => t.acc) = some 7 := by decide
theorem test_withFetchWord_two_words : seen (step (base.withFetchWord 16 0x4321)) (fun t => t.pc) = some 0x321 := by
  decide
theorem test_withFetchWord_refused : step (base.withFetchWord 8 0xFF) = .refused (.unassignedWord 0xFF) := rfl
theorem test_core : Sys2Proof.core.reset = State.reset := rfl

/-! ### Witnesses: states and operands that meet the hypotheses of the statements -/

theorem witness_EncodeOfDecode : decode [0xD9, 0x01] = .ok (.ldm 9) [0x01] ∧ decode [0x4F, 0xFF] = .ok (.jun 0xFFF) [] := by
  decide
theorem witness_FirstWordDecidesLength :
    ([0x10, 0x1F, 0x20, 0x2E, 0x40, 0x5F, 0x70, 0x7F] : List Byte).all isTwoWord = true ∧
      ([0x00, 0x0E, 0x21, 0x2F, 0x30, 0x3F, 0x60, 0x6F, 0x80, 0xFD] : List Byte).all (fun w => !isTwoWord w) = true := by
  decide
theorem witness_UnassignedFirstWords : decode [0x0F, 0x00] = .invalid (.unassigned 0x0F) ∧
    decode [0xFE, 0x00] = .invalid (.unassigned 0xFE) ∧ decode [0xFF, 0x00] = .invalid (.unassigned 0xFF) := by decide

/-- Running, with the words of `JUN 0x321` at the program counter. -/
def running : State := base.placeWords 0x43 0x21

theorem witness_StepRunsDecodedInstruction_one : base.runs ∧ isPopulated base.plat (base.tick.programLoc base.pc) = true ∧
    decode [base.mem.read (base.tick.programLoc base.pc).key] = .ok .nop [] := by decide
theorem witness_StepRunsDecodedInstruction_two : running.runs ∧
    isPopulated running.plat (running.tick.programLoc running.pc) = true ∧
    isPopulated running.plat (running.tick.tick.programLoc (running.pc + 1)) = true ∧
    decode [running.mem.read (running.tick.programLoc running.pc).key,
      running.mem.read (running.tick.tick.programLoc (running.pc + 1)).key] = .ok (.jun 0x321) [] := by decide

/-- Running at an unassigned word. -/
def atUnassigned : State := base.placeWords 0xFE 0x00

/-- Running at an unpopulated address. -/
def atHole : State := { base with plat := { base.plat with romAbsent := [(0, 0)] } }

/-- Running at the last populated address, with the first word of a JUN there. -/
def beforeHole : State := { running with plat := { base.plat with romAbsent := [(0, 1)] } }

theorem witness_StepsWithoutMeaningStop_unassigned : atUnassigned.runs ∧
    isPopulated atUnassigned.plat (atUnassigned.tick.programLoc atUnassigned.pc) = true ∧
    atUnassigned.mem.read (atUnassigned.tick.programLoc atUnassigned.pc).key ∈ [0x0F#8, 0xFE#8, 0xFF#8] := by decide
theorem witness_StepsWithoutMeaningStop_first : atHole.runs ∧
    isPopulated atHole.plat (atHole.tick.programLoc atHole.pc) = false := by decide
theorem witness_StepsWithoutMeaningStop_second : beforeHole.runs ∧
    isPopulated beforeHole.plat (beforeHole.tick.programLoc beforeHole.pc) = true ∧
    isTwoWord (beforeHole.mem.read (beforeHole.tick.programLoc beforeHole.pc).key) = true ∧
    isPopulated beforeHole.plat (beforeHole.tick.tick.programLoc (beforeHole.pc + 1)) = false := by decide

/-- Program RAM answers 0x080 to 0x0FF of bank 0 with page 5, the single address 0x300 of bank 1 with page 6, and
0x0F0 to 0x1FF of bank 0 with the page that RAM port (0, 1) carries, which is 3. -/
def mapped : State :=
  { selected with
    plat := { base.plat with
      pramFetchMap := [⟨0, 0x080, 0x0FF, .fixed 5⟩, ⟨1, 0x300, 0x300, .fixed 6⟩, ⟨0, 0x0F0, 0x1FF, .lines⟩]
      pramExtraLines := some (.ram 0 1) }
    mem := base.mem.write (Loc.ramPort 0 1).key 3 }

/-- The edges of the regions, the overlap of the first and the third, both banks. -/
theorem test_fetch_regions :
    ([0x07F, 0x080, 0x0F0, 0x0FF, 0x100, 0x1FF, 0x200, 0x300] : List Addr).map mapped.programLoc =
        [.rom 0 0x07F, .pram 5 0x80, .pram 5 0xF0, .pram 5 0xFF, .pram 3 0x00, .pram 3 0xFF, .rom 0 0x200, .rom 0 0x300] ∧
      ([0x080, 0x2FF, 0x300, 0x301] : List Addr).map { mapped with romb := 1 }.programLoc =
        [.rom 1 0x080, .rom 1 0x2FF, .pram 6 0x00, .rom 1 0x301] := by decide
/-- Code in program RAM: the word that two WPM wrote is fetched (20_memory.md R81). -/
theorem test_fetch_from_pram : seen (step { base.setPc 0xF10 with
      mem := base.mem.write (Loc.pram 0 0x10).key 0xD5 }) (fun t => (t.acc, t.pc)) = some (5, 0xF11) := by decide

theorem witness_ProgramAddressesLocated_rom :
    (∀ r ∈ mapped.plat.pramFetchMap, ¬Covers r mapped.romb 0x07F) ∧
      (∀ r ∈ mapped.plat.pramFetchMap, ¬Covers r mapped.romb 0x200) := by decide
theorem witness_ProgramAddressesLocated_fixed :
    mapped.plat.pramFetchMap = [] ++ ⟨0, 0x080, 0x0FF, .fixed 5⟩ :: mapped.plat.pramFetchMap.tail ∧
      Covers ⟨0, 0x080, 0x0FF, .fixed 5⟩ mapped.romb 0x080 ∧ Covers ⟨0, 0x080, 0x0FF, .fixed 5⟩ mapped.romb 0x0FF := by
  decide
theorem witness_ProgramAddressesLocated_lines :
    mapped.plat.pramFetchMap = mapped.plat.pramFetchMap.take 2 ++ ⟨0, 0x0F0, 0x1FF, .lines⟩ :: [] ∧
      (∀ q ∈ mapped.plat.pramFetchMap.take 2, ¬Covers q mapped.romb 0x100) ∧
      Covers ⟨0, 0x0F0, 0x1FF, .lines⟩ mapped.romb 0x100 ∧ Covers ⟨0, 0x0F0, 0x1FF, .lines⟩ mapped.romb 0x1FF := by
  decide
/-- The map of the reset platform at its edges. -/
theorem witness_ProgramAddressesLocated_default : selected.plat.pramFetchMap = State.reset.plat.pramFetchMap ∧
    ([0xEFF, 0xF00, 0xFFF] : List Addr).map selected.programLoc = [.rom 0 0xEFF, .pram 0 0x00, .pram 0 0xFF] := by decide
theorem witness_ProgramAddressesLocated_wires : selected.plat.pramExtraLines = none ∧
    mapped.plat.pramExtraLines = some (.ram 0 1) ∧
    { base.plat with pramExtraLines := some (.rom 1 15) }.pramExtraLines = some (.rom 1 15) := by decide
/-- A WPM whose word, 0x6B of page 3, answers the program address 0x16B. -/
theorem witness_ProgramAddressesLocated_wpm : mapped.mem.wf ∧ PramSelected mapped 0x6B ∧
    mapped.programLoc 0x16B = .pram mapped.extraLines 0x6B ∧ mapped.programLoc 0x0EB ≠ .pram mapped.extraLines 0x6B :=
  ⟨by decide, ⟨⟨0, rfl⟩, rfl, by decide⟩, by decide, by decide⟩

/-- Running with these inputs. -/
def runningWith (p : Pins) : State := { base with script := [p] }

theorem witness_StepsWithoutMeaningStop_control : (runningWith (sample false false true false)).pins.resetIn = false ∧
    (runningWith (sample false false true false)).halt = false ∧
    (runningWith (sample false false true false)).pins.stopCtl = true := by decide
theorem witness_ResetFixesFourValues : (runningWith (sample true true true true)).pins.resetIn = true := by decide
theorem witness_ResetEventKeepsMemory : (haltedWith (sample true false false false)).pins.resetIn = true := by decide

/-- A state with listed memory in canonical form, about to run `WRM`. -/
def storing : State := { selected.placeWords 0xE0 0x00 with acc := 9 }

theorem witness_StepKeepsMemoryCanonical : storing.mem.wf ∧ (seen (step storing) fun t => t.mem.length) = some 2 := by
  decide
theorem witness_StepNeverWritesRom : storing.mem.wf ∧ (seen (step storing) fun t => decide (t.mem = storing.mem)) = some false := by
  decide
theorem witness_StepKeepsFlipFlopsConsistent : base.flipFlopsConsistent ∧
    (seen (run1 0x01 base) fun t => t.halt) = some true := by decide
theorem witness_UnselectedBankIsInvisible : Instr.inc 3 ≠ .sb0 ∧ Instr.inc 3 ≠ .sb1 ∧ Instr.inc 3 ≠ .bbs := by decide
theorem witness_OnlyEinDinAndResetWriteIe : base.ie = false ∧ (seen (run1 0x0C base) fun t => t.ie) = some true := by
  decide
theorem witness_OnlyBbsAndResetClearInta_off :
    (seen (run1 0x02 { base with inta := true }) fun t => t.inta) = some false := by decide
theorem witness_OnlyBbsAndResetClearInta_on : requested.inta = false ∧ (seen (step requested) fun t => t.inta) = some true := by
  decide
theorem witness_CommandRegisterWriters : base.cr3 = 0 ∧ (seen (run1 0x09 base) fun t => t.cr3) = some 1 ∧ base.cm = 0 ∧
    (seen (run1 0xFD { base with acc := 5 }) fun t => t.cm) = some 5 := by decide
theorem witness_TaggedAddressesDoNotOverlap :
    (Loc.rom 1 0xFFF).key = 0x1FFF ∧ (Loc.pram 0 0).key = 0x2000 ∧ (Loc.rams 7 3 3 3).key = 0x39FF ∧
      (Loc.ramPort 0 0).key = 0x3A00 ∧ (Loc.rom 1 0xFFF).key = (Loc.rom 1 0xFFF).key := by decide

theorem witness_InterruptEntry_running : requested.pins.resetIn = false ∧ requested.interruptRecognised = true ∧
    requested.pins.stopCtl = false ∧ requested.dbcnt = 0 := by decide
/-- A halted processor with no bank change pending. -/
theorem witness_InterruptEntry_halted_settled :
    let s := { haltedWith (sample false true false false) with ie := true }
    s.pins.resetIn = false ∧ s.interruptRecognised = true ∧ s.halt = true ∧ s.dbcnt = 0 := by decide
/-- A halted processor whose pending bank change ends in the cycle of the entry. -/
theorem witness_InterruptEntry_halted :
    let s := { haltedWith (sample false true true false) with ie := true, dbcnt := 1 }
    s.pins.resetIn = false ∧ s.interruptRecognised = true ∧ s.halt = true ∧ s.tick.dbcnt = 0 := by decide
theorem witness_InterruptEntry_pending :
    let s := { haltedWith (sample false true false false) with ie := true, dbcnt := 2 }
    s.pins.resetIn = false ∧ s.interruptRecognised = true ∧ s.halt = true ∧ s.tick.dbcnt = 1 := by decide
theorem witness_HaltedStep_stop : (haltedWith (sample false false true false)).pins.resetIn = false ∧
    (haltedWith (sample false false true false)).halt = true ∧
    (haltedWith (sample false false true false)).interruptRecognised = false ∧
    (haltedWith (sample false false true false)).pins.stopCtl = true := by decide
theorem witness_HaltedStep_masked :
    let s := { haltedWith (sample false true false false) with plat := { base.plat with haltWakeWhenMasked := .resume } }
    s.pins.resetIn = false ∧ s.halt = true ∧ s.interruptRecognised = false ∧ s.pins.intReq = true := by decide
theorem witness_HaltedStep_stays : (haltedWith (sample false false false false)).pins.resetIn = false ∧
    (haltedWith (sample false false false false)).halt = true ∧
    (haltedWith (sample false false false false)).interruptRecognised = false := by decide
theorem witness_BbsReturnsFromInterrupt : requested.interruptEntry = .next requested.forcedJms ∧
    requested.forcedJms.sp = 1 ∧ requested.forcedJms.stackReg requested.sp = 0x123 := ⟨rfl, rfl, rfl⟩
theorem witness_NopLdmLd : base.runs ∧ isPopulated base.plat (base.tick.programLoc base.pc) = true ∧
    base.mem.read (base.tick.programLoc base.pc).key = 0x00 := by decide
theorem witness_AddressStackHoldsSeven :
    ([0x100, 0x200, 0x300, 0x400, 0x500, 0x600, 0x700] : List Addr).length = 7 := by decide

/-- For JunAndJin, JcnJumpsInPage and IszLoops: the address of the last word inside a page, at its end and at the end
of the bank. -/
theorem witness_last_words : (base.setPc 0x211).pc = 0x210 + 1 ∧ (base.setPc 0x300).pc = 0x2FF + 1 ∧
    (base.setPc 0x000).pc = 0xFFF + 1 := by decide
theorem witness_FinFetchesIndirect : (base.setPc 0x300).pc = 0x2FF + 1 ∧
    isPopulated base.plat ((base.setPc 0x300).tick.programLoc (nextPage 0x2FF ++ (base.setPc 0x300).pairValue 0)) = true := by
  decide
theorem witness_Db0AndDb1DesignateBank : base.dbcnt = 0 ∧ { base with dbcnt := 1 }.dbcnt ≠ 0 := by decide
theorem witness_BankChangeInThirdCycle : (seen (exec .db0 base) fun t => t.dbcnt) = some 3 ∧
    (seen (exec .db1 base) fun t => t.dbcnt) = some 3 := by decide
theorem witness_Sb0AndSb1SelectBank : (0 : Nat) < 8 ∧ (7 : Nat) < 8 := by decide
/-- For RamReads, RamWrites, AdmAndSbm and WmpAndWrrLatchPorts. -/
theorem witness_RamSelected : RamSelected selected 1 2 11 := ⟨⟨0, rfl⟩, .inl rfl⟩
theorem witness_RamSelected_populated : isPopulated selected.plat (.ramm selected.cm 1 2 11) = true ∧
    isPopulated selected.plat (.ramPort selected.cm 1) = true ∧ selected.mem.wf := by decide
/-- RAM code 111 of a platform that decodes the combinations. -/
theorem witness_RamSelected_last : RamSelected { base with cr := 0b0111, sel := some ⟨0xFF, 7, 1⟩ } 3 3 15 :=
  ⟨⟨1, rfl⟩, .inl rfl⟩
/-- RAM code 100 of a platform that does not decode them. -/
theorem witness_RamSelected_single_line : RamSelected { base with
      cr := 0b0100, sel := some ⟨0x6B, 4, 0⟩, plat := { base.plat with ramCodesDecoded := false } } 1 2 11 :=
  ⟨⟨0, rfl⟩, .inr (by decide)⟩
/-- For RdrReadsPort and WmpAndWrrLatchPorts. -/
theorem witness_RomSelected : RomSelected selected ((6 : Nibble) ++ (11 : Nibble)) := ⟨0, rfl⟩
theorem witness_RomSelected_populated : isPopulated selected.plat (.romPort selected.romb 6) = true ∧
    (6 : Nat) = 16 * selected.romb.toNat + (6 : Nibble).toNat := by decide
theorem witness_PramSelected : PramSelected selected 0x6B := ⟨⟨0, rfl⟩, rfl, rfl⟩
theorem witness_WpmAndRpmMoveHalves : selected.mem.wf ∧ (seen (exec .wpm selected) fun t => t.fl) = some .last := by decide
theorem witness_InvalidSelections_none : base.sel = none ∧ Instr.rdm ∈ ([.rdm] : List Instr) := by decide
theorem witness_InvalidSelections_other_bank : { selected with cr := 0b0010 }.sel = some ⟨0x6B, 0, 0⟩ ∧
    (0 : BitVec 3) ≠ { selected with cr := 0b0010 }.cm ∧ (0 : BitVec 1) ≠ { selected with romb := 1 }.romb := by decide
theorem witness_InvalidSelections_code :
    let s := { base with cr := 0b0011, sel := some ⟨0x6B, 3, 0⟩, plat := { base.plat with ramCodesDecoded := false } }
    s.cm ∈ [0b011#3, 0b101#3, 0b110#3, 0b111#3] ∧ s.plat.ramCodesDecoded = false ∧ s.cm = 3 := by decide
theorem witness_InvalidSelections_no4289 :
    { selected with plat := { base.plat with with4289 := false } }.plat.with4289 = false ∧
      selected.plat.with4289 = true := by decide

/-- No RAM chip 1 under code 0, no ROM port 6, no program RAM at 0x6B. -/
def unpopulated : State :=
  { selected with plat := { base.plat with ramAbsent := [(0, 1)], romPortAbsent := [(0, 6)], pramAbsent := [(0, 0x6B)] } }

theorem witness_InvalidSelections_noProgramRam : RomSelected unpopulated 0x6B ∧ unpopulated.plat.with4289 = true ∧
    isPopulated unpopulated.plat (.pram unpopulated.extraLines 0x6B) = false := ⟨⟨0, rfl⟩, rfl, by decide⟩
theorem witness_UnpopulatedChipsAreInert : RamSelected unpopulated 1 2 11 ∧ RomSelected unpopulated ((6 : Nibble) ++ (11 : Nibble)) ∧
    isPopulated unpopulated.plat (.ramm unpopulated.cm 1 2 11) = false ∧
    isPopulated unpopulated.plat (.romPort unpopulated.romb 6) = false :=
  ⟨⟨⟨0, rfl⟩, .inl rfl⟩, ⟨0, rfl⟩, by decide, by decide⟩
theorem witness_DaaAdjusts : { base with acc := 9 }.acc.toNat ≤ 9 ∧
    ((base.setX 2 9).reg ((base.setX 2 9).regName 2)).toNat ≤ 9 := by decide
theorem witness_InstructionsChangeOnlyDestinations : (seen (exec (.jms 0x205) base) fun t => t.pc) = some 0x205 := by decide
theorem witness_InstructionsKeepTheRest :
    (seen (exec (.inc 3) base) fun t => t.x 3) = some 1 ∧ (seen (exec (.fim 3 0x12) base) fun t => t.xp 3) = some 0x12 ∧
      (seen (exec .wrm selected) fun t => t.acc) = some 0 ∧ (seen (exec .wrr selected) fun t => t.acc) = some 0 ∧
      (seen (exec .wpm selected) fun t => t.acc) = some 0 ∧ (seen (exec (.bbl 3) base) fun t => t.acc) = some 3 := by
  decide
/-- The selections of InstructionsKeepTheRest. -/
theorem witness_selections_ok : selected.ramSel = .ok ⟨0, 1, 2, 11⟩ ∧ selected.romAddr = .ok 0x6B ∧
    selected.pramSel = .ok (.pram 0 0x6B) := ⟨rfl, rfl, rfl⟩

end Sys2Proof.Tests
end

namespace Sys2Proof.Encoding

/-- Settles O1: each table is a closed fact about 16 words, evaluated table by table along the decoder's own split by
OPR (`decodeGroup0`, `decodeGroupE`, `decodeGroupF`). -/
theorem fixedCodesDecodeAsTabulated : Obligations.FixedCodesDecodeAsTabulated := by
  unfold Obligations.FixedCodesDecodeAsTabulated
  refine ⟨?group0, ?groupE, ?groupF⟩
  case group0 => decide
  case groupE => decide
  case groupF => decide

end Sys2Proof.Encoding

namespace Sys2Proof.OneWordBasic

open Sys2Proof.Machine

/-! ### One-word encodings -/

/-- No first word of a two-word instruction decodes as a one-word instruction (30_encoding.md R93, R95). -/
theorem isTwoWord_of_decodeOneWord {w : Byte} {i : Instr} (h : decodeOneWord w = some i) : isTwoWord w = false := by
  have key : ∀ v : Byte, (decodeOneWord v).isSome = true → isTwoWord v = false := by decide
  exact key w (by rw [h]; rfl)

/-- A word that the one-word decoder reads as `i` is the only encoding of `i`. -/
theorem encodedAs_of_decodeOneWord {w : Byte} {i : Instr} (h : decodeOneWord w = some i) : EncodedAs i [w] := by
  refine ⟨encode_of_decodeOneWord w i h, fun rest => ?_⟩
  rw [List.singleton_append, decode_one (isTwoWord_of_decodeOneWord h), h]

/-- OPR is the word's high digit, OPA its low one (R91). -/
theorem word4_eq_ofNat (opr opa : Nibble) : word4 opr opa = BitVec.ofNat 8 (16 * opr.toNat + opa.toNat) := by
  revert opr opa
  decide

/-- The encoding of a one-word instruction from its OPR and OPA. -/
theorem encodedAs_of_opr_opa {opr opa : Nibble} {i : Instr} (h : decodeOneWord (word4 opr opa) = some i) :
    EncodedAs i [BitVec.ofNat 8 (16 * opr.toNat + opa.toNat)] :=
  word4_eq_ofNat opr opa ▸ encodedAs_of_decodeOneWord h

/-! ### The step at a one-word instruction -/

/-- A single word that decodes selects no second word. -/
theorem isTwoWord_of_decode_singleton {w : Byte} {i : Instr} {rest : List Byte} (h : decode [w] = .ok i rest) :
    isTwoWord w = false := by
  rw [← Bool.not_eq_true]
  intro h2
  simp [decode, h2] at h

/-- A one-word instruction is fetched in one cycle. -/
theorem fetchInstr_of_oneWord {s : State} {i : Instr} (hp : isPopulated s.plat (s.tick.programLoc s.pc) = true)
    (hd : decode [s.mem.read (s.tick.programLoc s.pc).key] = .ok i []) : s.fetchInstr = .next (i, s.fetched) := by
  have hone := isTwoWord_of_decode_singleton hd
  simp [State.fetchInstr, State.fetchWords, fetchWord_of_populated hp, hone, hd]

/-- With nothing to keep it from fetching, a step is an instruction step on the present sample
(60_exceptions.md R254). -/
theorem step_of_runs {s : State} (h : s.runs) : step s = andThen s.instructionStep fun t => .next t.advance := by
  obtain ⟨hreset, hhalt, hstop, hint⟩ := h
  simp [step, State.sampledStep, State.machineStep, hreset, hhalt, hstop, hint]

/-- The step at a one-word instruction is its meaning in the fetched state. -/
theorem step_of_oneWord {s : State} {i : Instr} (hr : s.runs)
    (hp : isPopulated s.plat (s.tick.programLoc s.pc) = true)
    (hd : decode [s.mem.read (s.tick.programLoc s.pc).key] = .ok i []) :
    step s = andThen (exec i s.fetched) fun t => .next t.advance := by
  rw [step_of_runs hr, State.instructionStep, fetchInstr_of_oneWord hp hd, andThen_of_next]

/-! ### NOP -/

/-- NOP is the word 0x00 (R97). -/
theorem encodedAs_nop : EncodedAs .nop [0x00] := encodedAs_of_decodeOneWord rfl

theorem exec_nop (s : State) : exec .nop s = .next s := rfl

/-- A step at NOP's word only fetches it and uses up the input sample. -/
theorem step_of_nop {s : State} (hr : s.runs) (hp : isPopulated s.plat (s.tick.programLoc s.pc) = true)
    (hw : s.mem.read (s.tick.programLoc s.pc).key = 0x00) : step s = .next s.fetched.advance := by
  obtain ⟨_, hdecode⟩ := encodedAs_nop
  have hd : decode [s.mem.read (s.tick.programLoc s.pc).key] = .ok .nop [] := hw ▸ hdecode []
  rw [step_of_oneWord hr hp hd, exec_nop, andThen_of_next]

/-! ### The registers and the adder -/

/-- The index registers depend only on the three register files. -/
theorem reg_congr {s t : State} (h0 : t.irb0 = s.irb0) (h1 : t.irb1 = s.irb1) (hs : t.irs = s.irs) (q : RegName) :
    t.reg q = s.reg q := by
  cases q with
  | bank0 i => exact congrArg (fileGet · i) h0
  | bank1 i => exact congrArg (fileGet · i) h1
  | shared i => exact congrArg (fileGet · i) hs

/-- After a write of `x[r]` the register that `r` names holds the value. -/
theorem reg_setX_same (s : State) (r v : Nibble) : (s.setX r v).reg (s.regName r) = v := by
  rw [reg_setX, if_pos rfl]

/-- The five sum bits of the adder, the carry on top, are the exact sum (44_accumulator.md R234). -/
theorem add4_exact (a b : Nibble) (c : Bool) :
    16 * (add4 a b c).carry.toNat + (add4 a b c).value.toNat = a.toNat + b.toNat + c.toNat := by
  revert a b c
  decide

theorem add4_value_toNat (a b : Nibble) (c : Bool) :
    (add4 a b c).value.toNat = (a.toNat + b.toNat + c.toNat) % 16 := by
  have hsum := add4_exact a b c
  have hlt := (add4 a b c).value.isLt
  omega

theorem add4_carry_iff (a b : Nibble) (c : Bool) :
    (add4 a b c).carry = true ↔ 15 < a.toNat + b.toNat + c.toNat := by
  have hsum := add4_exact a b c
  have hlt := (add4 a b c).value.isLt
  have hbit := (add4 a b c).carry.toNat_le
  rw [← Bool.toNat_eq_one]
  omega

/-- A 4-bit increment wraps from 15 to 0. -/
theorem succ_toNat (v : Nibble) : (v + 1).toNat = if v.toNat = 15 then 0 else v.toNat + 1 := by
  revert v
  decide

/-! ### The obligations -/

/-- Settles O25: the register write of the swap is `reg_setX_same`; setting the accumulator after it leaves the
register files alone. -/
theorem xchSwaps : Obligations.XchSwaps := by
  intro r
  refine ⟨encodedAs_of_opr_opa (opr := 0xB) (by simp [decodeOneWord]), fun s => ?_⟩
  have hexec : exec (.xch r) s = .next { s.setX r s.acc with acc := s.x r } := rfl
  refine ⟨_, hexec, x_eq_reg s r, ?register, setX_cy s r s.acc⟩
  case register => exact (reg_congr rfl rfl rfl _).trans (reg_setX_same s r s.acc)

/-- Settles O26, by the exact five-bit sum of the adder. -/
theorem addComputesSum : Obligations.AddComputesSum := by
  intro r
  refine ⟨encodedAs_of_opr_opa (opr := 0x8) (by simp [decodeOneWord]), fun s => ?_⟩
  have hexec : exec (.add r) s = .next (s.setSum (add4 (s.x r) s.acc s.cy)) := rfl
  rw [← x_eq_reg]
  refine ⟨_, hexec, ?value, ?carry, ?register⟩
  case value => exact add4_value_toNat _ _ _
  case carry => exact add4_carry_iff _ _ _
  case register => exact (reg_congr rfl rfl rfl _).trans (x_eq_reg s r).symm

/-- Settles O28, by the register write rule and the wrap of a 4-bit increment. -/
theorem incIncrements : Obligations.IncIncrements := by
  intro r
  refine ⟨encodedAs_of_opr_opa (opr := 0x6) (by simp [decodeOneWord]), fun s => ?_⟩
  have hexec : exec (.inc r) s = .next (s.setX r (s.x r + 1)) := rfl
  refine ⟨_, hexec, ?register, setX_cy s r _, setX_acc s r _⟩
  case register => rw [reg_setX_same, ← x_eq_reg, succ_toNat]

/-- Settles O24: NOP by its step, LDM and LD by their meanings, which write the accumulator only. -/
theorem nopLdmLd : Obligations.NopLdmLd := by
  refine ⟨⟨encodedAs_nop, exec_nop, fun _ => step_of_nop⟩, fun d => ?ldm, fun r => ?ld⟩
  case ldm =>
    refine ⟨encodedAs_of_opr_opa (opr := 0xD) (by simp [decodeOneWord]), fun s => ?_⟩
    have hexec : exec (.ldm d) s = .next { s with acc := d } := rfl
    exact ⟨_, hexec, rfl, rfl⟩
  case ld =>
    refine ⟨encodedAs_of_opr_opa (opr := 0xA) (by simp [decodeOneWord]), fun s => ?_⟩
    have hexec : exec (.ld r) s = .next { s with acc := s.x r } := rfl
    exact ⟨_, hexec, x_eq_reg s r, reg_congr rfl rfl rfl, rfl⟩

end Sys2Proof.OneWordBasic

namespace Sys2Proof.OneWord4040

open Sys2Proof.Machine Sys2Proof.OneWordBasic

/-! ### The registers that an address names under a bank -/

/-- Addresses 0 to 7 name the registers of the selected bank (10_state.md R23). -/
theorem regName_ofNat_of_lt (s : State) {k : Nat} (hk : k < 8) :
    s.regName (BitVec.ofNat 4 k) = if s.rbs then .bank1 (BitVec.ofNat 3 k) else .bank0 (BitVec.ofNat 3 k) := by
  have haddr : (BitVec.ofNat 4 k).toNat = k := Nat.mod_eq_of_lt (by omega)
  rw [State.regName, haddr, if_neg (by omega)]

/-- Addresses 8 to 15 name the shared registers, whichever bank is selected (R23). -/
theorem regName_ofNat_add (s : State) {k : Nat} (hk : k < 8) :
    s.regName (BitVec.ofNat 4 (8 + k)) = .shared (BitVec.ofNat 3 k) := by
  have haddr : (BitVec.ofNat 4 (8 + k)).toNat = 8 + k := Nat.mod_eq_of_lt (by omega)
  rw [State.regName, haddr, if_pos (by omega), Nat.add_sub_cancel_left]

/-! ### Selecting a bank -/

/-- Selecting a bank moves no register's content. -/
theorem reg_selectBank (s : State) (b : Bool) (q : RegName) : { s with rbs := b }.reg q = s.reg q :=
  reg_congr rfl rfl rfl q

theorem x_selectBank_of_lt (s : State) (b : Bool) {k : Nat} (hk : k < 8) :
    { s with rbs := b }.x (BitVec.ofNat 4 k) =
      s.reg (if b then .bank1 (BitVec.ofNat 3 k) else .bank0 (BitVec.ofNat 3 k)) := by
  rw [x_eq_reg, reg_selectBank, regName_ofNat_of_lt _ hk]

theorem x_selectBank_add (s : State) (b : Bool) {k : Nat} (hk : k < 8) :
    { s with rbs := b }.x (BitVec.ofNat 4 (8 + k)) = s.reg (.shared (BitVec.ofNat 3 k)) := by
  rw [x_eq_reg, reg_selectBank, regName_ofNat_add _ hk]

theorem exec_sb0 (s : State) : exec .sb0 s = .next { s with rbs := false } := rfl

theorem exec_sb1 (s : State) : exec .sb1 s = .next { s with rbs := true } := rfl

/-- Settles O42: both instructions only select a bank, so the contents stay and what an address reads follows from the
register it names under that bank. -/
theorem sb0AndSb1SelectBank : Obligations.Sb0AndSb1SelectBank := by
  refine ⟨⟨encodedAs_of_decodeOneWord rfl, encodedAs_of_decodeOneWord rfl⟩, fun s => ⟨?sb0, ?sb1⟩⟩
  case sb0 =>
    exact ⟨_, exec_sb0 s, rfl, rfl, reg_selectBank s false, fun _ hk => x_selectBank_of_lt s false hk,
      fun _ hk => x_selectBank_add s false hk⟩
  case sb1 =>
    exact ⟨_, exec_sb1 s, rfl, rfl, reg_selectBank s true, fun _ hk => x_selectBank_of_lt s true hk,
      fun _ hk => x_selectBank_add s true hk⟩

end Sys2Proof.OneWord4040

namespace Sys2Proof.TwoWord

open Sys2Proof.Machine

/-! ### Two-word encodings -/

/-- A word that the two-word decoder reads is the first of two (30_encoding.md R93, R95). -/
theorem isTwoWord_of_decodeTwoWord {w1 w2 : Byte} {i : Instr} (h : decodeTwoWord w1 w2 = some i) :
    isTwoWord w1 = true := by
  unfold decodeTwoWord at h
  split at h
  case h_2 hopr =>
    cases hbit : w1[0] with
    | false => simp [isTwoWord, hopr, hbit]
    | true => simp [hbit] at h
  case h_6 => cases h
  all_goals next hopr => simp [isTwoWord, hopr]

/-- Two words that the encoder writes for `i`, and that the two-word decoder reads as `i`, are its only encoding. -/
theorem encodedAs_of_decodeTwoWord {w1 w2 : Byte} {i : Instr} (henc : encode i = [w1, w2])
    (hdec : decodeTwoWord w1 w2 = some i) : EncodedAs i [w1, w2] := by
  refine ⟨henc, fun rest => ?_⟩
  rw [List.cons_append, List.singleton_append, decode_two (isTwoWord_of_decodeTwoWord hdec), hdec]

/-- OPR is the word's high digit, the pair and the last bit its low one (R91, R100). -/
theorem wordPair_eq_ofNat (opr : Nibble) (p : PairAddr) (b : BitVec 1) :
    wordPair opr p b = BitVec.ofNat 8 (16 * opr.toNat + 2 * p.toNat + b.toNat) := by
  revert opr p b
  decide

/-- FIM is OPR 2 with the pair and a last bit 0, then the data (R92, R95). -/
theorem encodedAs_fim (p : PairAddr) (d8 : Byte) :
    EncodedAs (.fim p d8) [BitVec.ofNat 8 (0x20 + 2 * p.toNat), d8] := by
  have hword : wordPair 0x2 p 0 = BitVec.ofNat 8 (0x20 + 2 * p.toNat) := wordPair_eq_ofNat 0x2 p 0
  rw [← hword]
  exact encodedAs_of_decodeTwoWord rfl (by simp [decodeTwoWord])

/-! ### The pair and the halves of its data -/

/-- After a write of `xp[p]` the even register holds the high half (00_scope.md R8). -/
theorem reg_evenName_setXp (s : State) (p : PairAddr) (v : Byte) : (s.setXp p v).reg (s.evenName p) = v.high := by
  rw [reg_setXp, if_neg (evenName_ne_oddName s p), if_pos rfl]

/-- After a write of `xp[p]` the odd register holds the low half (R8). -/
theorem reg_oddName_setXp (s : State) (p : PairAddr) (v : Byte) : (s.setXp p v).reg (s.oddName p) = v.low := by
  rw [reg_setXp, if_pos rfl]

theorem high_toNat (w : Byte) : w.high.toNat = w.toNat / 16 := by
  revert w
  decide

theorem low_toNat (w : Byte) : w.low.toNat = w.toNat % 16 := BitVec.toNat_setWidth 4 w

/-- Settles O33: FIM writes the pair, so each register holds its half of the data. -/
theorem fimLoadsPair : Obligations.FimLoadsPair := by
  intro p d8
  refine ⟨encodedAs_fim p d8, fun s => ?_⟩
  have hexec : exec (.fim p d8) s = .next (s.setXp p d8) := rfl
  refine ⟨_, hexec, ?even, ?odd, setXp_acc s p d8, setXp_cy s p d8⟩
  case even => rw [reg_evenName_setXp, high_toNat]
  case odd => rw [reg_oddName_setXp, low_toNat]

/-! ### The jump condition -/

/-- C1 inverts the disjunction of the tests that C2, C3 and C4 select (42_two_word.md R173). -/
theorem jumps_eq_xor (cond acc : Nibble) (cy test : Bool) :
    jumps cond acc cy test =
      (cond[3] ^^ (cond[2] && decide (acc.toNat = 0) || cond[1] && cy || cond[0] && !test)) := by
  have hzero : (acc == 0) = decide (acc.toNat = 0) := by
    revert acc
    decide
  unfold jumps conditionMet
  rw [hzero]
  cases cond[3] with
  | false => rw [if_neg Bool.false_ne_true, Bool.false_xor]
  | true => rw [if_pos rfl, Bool.true_xor]

/-- Settles O34: by `jumps_eq_xor` a row depends on three flags only, so the table is a Boolean identity in them. -/
theorem jcnConditionTable : Obligations.JcnConditionTable := by
  intro acc cy test z
  have hz : decide (acc.toNat = 0) = z := rfl
  simp only [jumps_eq_xor, hz]
  clear_value z
  clear hz
  revert cy test z
  decide

end Sys2Proof.TwoWord

namespace Sys2Proof.IoRam

open Sys2Proof.Machine Sys2Proof.OneWordBasic Sys2Proof.TwoWord

/-! ### A populated place: what a load gives, what a read finds after a store -/

/-- Main memory and status characters stand on one chip, so a platform has both or neither (20_memory.md R65). -/
theorem isPopulated_rams_of_ramm {p : Platform} {code : BitVec 3} {chip reg : BitVec 2} {ch : Nibble}
    (h : isPopulated p (.ramm code chip reg ch) = true) (k : BitVec 2) :
    isPopulated p (.rams code chip reg k) = true := h

/-- A load gives the low half of a populated place's byte (20_memory.md R65). -/
theorem load_toNat {s : State} {l : Loc} (hp : isPopulated s.plat l = true) :
    (s.load l).toNat = (s.mem.read l.key).toNat % 16 := by
  rw [State.load, if_pos hp, low_toNat]

/-- A populated place's byte after a store is the stored character. -/
theorem read_store_same_toNat {s : State} (hm : s.mem.wf) {l : Loc} (hp : isPopulated s.plat l = true) (v : Nibble) :
    ((s.store l v).mem.read l.key).toNat = v.toNat := by
  rw [store_mem, if_pos hp, Memory.read_write_same (Memory.wf_sorted hm)]
  exact BitVec.toNat_setWidth_of_le (by decide)

/-! ### Reading and writing through the RAM selection

`place` is the place that the instruction reaches from the selection: `RamSel.main` or a `RamSel.status`. -/

section
variable {s : State} {chip reg : BitVec 2} {ch : Nibble} {i : Instr} {place : RamSel → Loc}

/-- An instruction that loads the accumulator through the RAM selection reads the character at its place. -/
theorem completes_of_exec_load (hsel : RamSelected s chip reg ch)
    (hexec : exec i s = s.onRam fun a => { s with acc := s.load (place a) })
    (hp : isPopulated s.plat (place ⟨s.cm, chip, reg, ch⟩) = true) :
    Completes i s fun t => t.acc.toNat = (s.mem.read (place ⟨s.cm, chip, reg, ch⟩).key).toNat % 16 ∧ t.cy = s.cy ∧
      t.mem.read (place ⟨s.cm, chip, reg, ch⟩).key = s.mem.read (place ⟨s.cm, chip, reg, ch⟩).key :=
  ⟨_, hexec.trans (onRam_of_selected hsel _), load_toNat hp, rfl, rfl⟩

/-- An instruction that stores the accumulator through the RAM selection writes the character at its place and no
other byte. -/
theorem completes_of_exec_store (hm : s.mem.wf) (hsel : RamSelected s chip reg ch)
    (hexec : exec i s = s.onRam fun a => s.store (place a) s.acc)
    (hp : isPopulated s.plat (place ⟨s.cm, chip, reg, ch⟩) = true) :
    Completes i s fun t => (t.mem.read (place ⟨s.cm, chip, reg, ch⟩).key).toNat = s.acc.toNat ∧
      MemUnchangedBut (place ⟨s.cm, chip, reg, ch⟩) s t ∧ t.acc = s.acc ∧ t.cy = s.cy :=
  ⟨_, hexec.trans (onRam_of_selected hsel _), read_store_same_toNat hm hp s.acc,
    fun _ hk => read_store_other s hm _ s.acc hk, store_acc s _ s.acc, store_cy s _ s.acc⟩

end

/-! ### The obligations -/

/-- Settles O45: the five instructions store the accumulator through the selection, each at its own place, and one
chip holds all five places. -/
theorem ramWrites : Obligations.RamWrites := by
  refine ⟨⟨encodedAs_of_decodeOneWord rfl, encodedAs_of_decodeOneWord rfl, encodedAs_of_decodeOneWord rfl,
    encodedAs_of_decodeOneWord rfl, encodedAs_of_decodeOneWord rfl⟩, fun s chip reg ch hm hsel hmain => ?_⟩
  have hstatus := isPopulated_rams_of_ramm hmain
  refine ⟨?wrm, ?wr0, ?wr1, ?wr2, ?wr3⟩
  case wrm => exact completes_of_exec_store (place := RamSel.main) hm hsel rfl hmain
  case wr0 => exact completes_of_exec_store (place := fun a => a.status 0) hm hsel rfl (hstatus 0)
  case wr1 => exact completes_of_exec_store (place := fun a => a.status 1) hm hsel rfl (hstatus 1)
  case wr2 => exact completes_of_exec_store (place := fun a => a.status 2) hm hsel rfl (hstatus 2)
  case wr3 => exact completes_of_exec_store (place := fun a => a.status 3) hm hsel rfl (hstatus 3)

/-- Settles O44: the five instructions load the accumulator through the selection, each from its own place; the place
of a status character does not use the character address. -/
theorem ramReads : Obligations.RamReads := by
  refine ⟨⟨encodedAs_of_decodeOneWord rfl, encodedAs_of_decodeOneWord rfl, encodedAs_of_decodeOneWord rfl,
    encodedAs_of_decodeOneWord rfl, encodedAs_of_decodeOneWord rfl⟩, fun s chip reg ch hsel hmain => ?_⟩
  have hstatus := isPopulated_rams_of_ramm hmain
  refine ⟨?rdm, ?rd0, ?rd1, ?rd2, ?rd3⟩
  case rdm => exact completes_of_exec_load (place := RamSel.main) hsel rfl hmain
  case rd0 => exact completes_of_exec_load (place := fun a => a.status 0) hsel rfl (hstatus 0)
  case rd1 => exact completes_of_exec_load (place := fun a => a.status 1) hsel rfl (hstatus 1)
  case rd2 => exact completes_of_exec_load (place := fun a => a.status 2) hsel rfl (hstatus 2)
  case rd3 => exact completes_of_exec_load (place := fun a => a.status 3) hsel rfl (hstatus 3)

end Sys2Proof.IoRam

namespace Sys2Proof.Accumulator

open Sys2Proof.Machine Sys2Proof.OneWordBasic

/-! ### Meanings through `State.setSum` -/

theorem exec_iac (s : State) : exec .iac s = .next (s.setSum (add4 s.acc 1 false)) := rfl

theorem exec_dac (s : State) : exec .dac s = .next (s.setSum (add4 s.acc 15 false)) := rfl

theorem exec_ral (s : State) : exec .ral s = .next (s.setSum (rotateLeft s.acc s.cy)) := rfl

theorem exec_rar (s : State) : exec .rar s = .next (s.setSum (rotateRight s.acc s.cy)) := rfl

theorem exec_daa (s : State) : exec .daa s = .next (s.setSum (decimalAdjust s.acc s.cy)) := rfl

theorem exec_add (r : Nibble) (s : State) : exec (.add r) s = .next (s.setSum (add4 (s.x r) s.acc s.cy)) := rfl

/-- Of two results written in a row the second stays. -/
theorem setSum_setSum (s : State) (r q : Sum4) : (s.setSum r).setSum q = s.setSum q := rfl

/-- Writing the accumulator and the carry back changes nothing. -/
theorem setSum_self (s : State) : s.setSum ⟨s.acc, s.cy⟩ = s := rfl

/-! ### The rotations, bit by bit (44_accumulator.md R227, R228) -/

theorem rotateLeft_value_zero (a : Nibble) (c : Bool) : (rotateLeft a c).value.getLsbD 0 = c :=
  BitVec.getLsbD_append.trans (by simp)

theorem rotateLeft_value_succ (a : Nibble) (c : Bool) {k : Nat} (hk : k < 3) :
    (rotateLeft a c).value.getLsbD (k + 1) = a.getLsbD k :=
  BitVec.getLsbD_append.trans (by simp [hk])

theorem rotateLeft_carry (a : Nibble) (c : Bool) : (rotateLeft a c).carry = a.getLsbD 3 := rfl

theorem rotateRight_value_of_lt (a : Nibble) (c : Bool) {k : Nat} (hk : k < 3) :
    (rotateRight a c).value.getLsbD k = a.getLsbD (k + 1) :=
  BitVec.getLsbD_append.trans (by simp [hk, Nat.add_comm])

theorem rotateRight_value_three (a : Nibble) (c : Bool) : (rotateRight a c).value.getLsbD 3 = c :=
  BitVec.getLsbD_append.trans (by simp)

theorem rotateRight_carry (a : Nibble) (c : Bool) : (rotateRight a c).carry = a.getLsbD 0 := rfl

/-- RAR takes each of the five bits back to where RAL found it. -/
theorem rotateRight_rotateLeft (a : Nibble) (c : Bool) :
    rotateRight (rotateLeft a c).value (rotateLeft a c).carry = ⟨a, c⟩ := by
  revert a c
  decide

/-- RAL on an accumulator together with its carry. -/
def rotateSum (r : Sum4) : Sum4 := rotateLeft r.value r.carry

/-- RAL after a result is written rotates that result. -/
theorem exec_ral_setSum (s : State) (r : Sum4) : exec .ral (s.setSum r) = .next (s.setSum (rotateSum r)) := by
  rw [exec_ral, setSum_acc, setSum_cy, setSum_setSum, rotateSum]

/-- The ring has five bits, so five rotations by one place close it. -/
theorem rotateSum_five (a : Nibble) (c : Bool) : rotateSum^[5] ⟨a, c⟩ = ⟨a, c⟩ := by
  revert a c
  decide

/-- RAR after RAL leaves the state as it was. -/
theorem exec_rar_after_ral (s : State) : andThen (exec .ral s) (exec .rar) = .next s := by
  rw [exec_ral, andThen_of_next, exec_rar, setSum_acc, setSum_cy, rotateRight_rotateLeft, setSum_setSum, setSum_self]

/-- Five RAL in a row leave the state as it was. -/
theorem exec_ral_five (s : State) :
    andThen (andThen (andThen (andThen (exec .ral s) (exec .ral)) (exec .ral)) (exec .ral)) (exec .ral) = .next s := by
  have hfirst : exec .ral s = .next (s.setSum (rotateSum ⟨s.acc, s.cy⟩)) := exec_ral s
  have hring : rotateSum (rotateSum (rotateSum (rotateSum (rotateSum ⟨s.acc, s.cy⟩)))) = ⟨s.acc, s.cy⟩ :=
    rotateSum_five s.acc s.cy
  simp only [hfirst, andThen_of_next, exec_ral_setSum, hring, setSum_self]

/-! ### The decimal adjustment (44_accumulator.md R230) -/

theorem decimalAdjust_of_adjusts {a : Nibble} {c : Bool} (h : c = true ∨ 9 < a.toNat) :
    decimalAdjust a c = ⟨(add4 a 6 false).value, (add4 a 6 false).carry || c⟩ :=
  if_pos (by simpa [BitVec.lt_def] using h)

theorem decimalAdjust_of_not_adjusts {a : Nibble} {c : Bool} (h : ¬(c = true ∨ 9 < a.toNat)) :
    decimalAdjust a c = ⟨a, c⟩ :=
  if_neg (by simpa [BitVec.lt_def] using h)

theorem decimalAdjust_value_toNat {a : Nibble} {c : Bool} (h : c = true ∨ 9 < a.toNat) :
    (decimalAdjust a c).value.toNat = (a.toNat + 6) % 16 := by
  rw [decimalAdjust_of_adjusts h]
  exact add4_value_toNat a 6 false

theorem decimalAdjust_carry_iff {a : Nibble} {c : Bool} (h : c = true ∨ 9 < a.toNat) :
    (decimalAdjust a c).carry = true ↔ 15 < a.toNat + 6 ∨ c = true := by
  rw [decimalAdjust_of_adjusts h, Bool.or_eq_true]
  exact or_congr_left (add4_carry_iff a 6 false)

/-- An adjusted result always carries: the accumulator above 9 overflows with the 6, and a carry stays. -/
theorem decimalAdjust_carry_of_adjusts {a : Nibble} {c : Bool} (h : c = true ∨ 9 < a.toNat) :
    (decimalAdjust a c).carry = true := by
  rw [decimalAdjust_carry_iff h]
  exact h.symm.imp_left fun habove => by omega

/-- The adjusted binary sum of two decimal digits is their decimal sum, the carry standing for ten. -/
theorem decimalAdjust_add4 {d a : Nibble} (c : Bool) (hd : d.toNat ≤ 9) (ha : a.toNat ≤ 9) :
    10 * (decimalAdjust (add4 d a c).value (add4 d a c).carry).carry.toNat +
      (decimalAdjust (add4 d a c).value (add4 d a c).carry).value.toNat = d.toNat + a.toNat + c.toNat := by
  have hsum := add4_exact d a c
  have hc := c.toNat_le
  by_cases h : (add4 d a c).carry = true ∨ 9 < (add4 d a c).value.toNat
  case pos =>
    rw [decimalAdjust_carry_of_adjusts h, decimalAdjust_value_toNat h, Bool.toNat_true]
    have hten : 10 ≤ d.toNat + a.toNat + c.toNat := by
      rw [← Bool.toNat_eq_one] at h
      omega
    have hbit := (add4 d a c).carry.toNat_le
    omega
  case neg =>
    rw [decimalAdjust_of_not_adjusts h]
    obtain ⟨hcarry, -⟩ := not_or.mp h
    rw [Bool.not_eq_true] at hcarry
    rw [hcarry, Bool.toNat_false] at hsum ⊢
    omega

/-! ### TCC, TCS and KBP: what the accumulator gets -/

theorem carry_setWidth_toNat (c : Bool) : ((BitVec.ofBool c).setWidth 4).toNat = c.toNat := by
  cases c with
  | false => rfl
  | true => rfl

theorem carrySubtract_toNat (c : Bool) : (carrySubtract c).toNat = 9 + c.toNat := by
  cases c with
  | false => rfl
  | true => rfl

/-- KBP's table, row by row (44_accumulator.md R232). -/
theorem keyboardCode_eq_table (a : Nibble) :
    keyboardCode a = [0, 1, 2, 15, 3, 15, 15, 15, 4, 15, 15, 15, 15, 15, 15, 15].getD a.toNat 0 := by
  revert a
  decide

/-! ### The obligations -/

/-- Settles O53: both instructions are the adder with a constant and no carry in. -/
theorem iacAndDac : Obligations.IacAndDac := by
  refine ⟨⟨encodedAs_of_decodeOneWord rfl, fun s => ⟨_, exec_iac s, ?iacValue, ?iacCarry⟩⟩,
    encodedAs_of_decodeOneWord rfl, fun s => ⟨_, exec_dac s, ?dacValue, ?dacCarry⟩⟩
  case iacValue => exact add4_value_toNat s.acc 1 false
  case iacCarry =>
    have hcarry : (add4 s.acc 1 false).carry = true ↔ 15 < s.acc.toNat + 1 := add4_carry_iff s.acc 1 false
    have hlt := s.acc.isLt
    rw [setSum_cy, hcarry]
    omega
  case dacValue => exact add4_value_toNat s.acc 15 false
  case dacCarry =>
    have hcarry : (add4 s.acc 15 false).carry = true ↔ 15 < s.acc.toNat + 15 := add4_carry_iff s.acc 15 false
    rw [setSum_cy, ← Bool.not_eq_true, hcarry]
    omega

/-- Settles O54: the bits of each rotation, then RAR as the inverse of RAL and the ring of five. -/
theorem ralAndRarRotate : Obligations.RalAndRarRotate := by
  refine ⟨⟨encodedAs_of_decodeOneWord rfl, fun s => ⟨_, exec_ral s, ?_, ?_, ?_⟩⟩,
    ⟨encodedAs_of_decodeOneWord rfl, fun s => ⟨_, exec_rar s, ?_, ?_, ?_⟩⟩,
    fun s => ⟨exec_rar_after_ral s, exec_ral_five s⟩⟩
  · exact rotateLeft_value_zero s.acc s.cy
  · exact fun _ hk => rotateLeft_value_succ s.acc s.cy hk
  · exact rotateLeft_carry s.acc s.cy
  · exact rotateRight_carry s.acc s.cy
  · exact fun _ hk => rotateRight_value_of_lt s.acc s.cy hk
  · exact rotateRight_value_three s.acc s.cy

/-- Settles O56: the adjustment by its condition, and after ADD the decimal sum `decimalAdjust_add4`. -/
theorem daaAdjusts : Obligations.DaaAdjusts := by
  refine ⟨encodedAs_of_decodeOneWord rfl, fun s => ⟨_, exec_daa s, ?adjust⟩, fun s r ha hr => ?decimal⟩
  case adjust =>
    split
    case isTrue h => exact ⟨decimalAdjust_value_toNat h, decimalAdjust_carry_iff h⟩
    case isFalse h =>
      rw [decimalAdjust_of_not_adjusts h]
      exact ⟨rfl, rfl⟩
  case decimal =>
    rw [← x_eq_reg] at hr ⊢
    rw [exec_add, andThen_of_next, exec_daa]
    refine ⟨_, rfl, ?_⟩
    rw [setSum_setSum, setSum_acc, setSum_cy, setSum_acc, setSum_cy, decimalAdjust_add4 s.cy hr ha,
      Nat.add_comm (s.x r).toNat]

/-- Settles O52: each meaning names the two fields; the complement of a nibble is its distance from 15. -/
theorem clearSetAndComplement : Obligations.ClearSetAndComplement := by
  refine ⟨⟨encodedAs_of_decodeOneWord rfl, fun s => ?clb⟩, ⟨encodedAs_of_decodeOneWord rfl, fun s => ?clc⟩,
    ⟨encodedAs_of_decodeOneWord rfl, fun s => ?cmc⟩, ⟨encodedAs_of_decodeOneWord rfl, fun s => ?stc⟩,
    encodedAs_of_decodeOneWord rfl, fun s => ?cma⟩
  case clb =>
    have hexec : exec .clb s = .next { s with acc := 0, cy := false } := rfl
    exact ⟨_, hexec, rfl, rfl⟩
  case clc =>
    have hexec : exec .clc s = .next { s with cy := false } := rfl
    exact ⟨_, hexec, rfl, rfl⟩
  case cmc =>
    have hexec : exec .cmc s = .next { s with cy := !s.cy } := rfl
    exact ⟨_, hexec, rfl, Bool.not_ne_self s.cy⟩
  case stc =>
    have hexec : exec .stc s = .next { s with cy := true } := rfl
    exact ⟨_, hexec, rfl, rfl⟩
  case cma =>
    have hexec : exec .cma s = .next { s with acc := ~~~s.acc } := rfl
    exact ⟨_, hexec, BitVec.toNat_not, rfl⟩

/-- Settles O55, by what each instruction makes of the carry. -/
theorem tccAndTcs : Obligations.TccAndTcs := by
  refine ⟨⟨encodedAs_of_decodeOneWord rfl, fun s => ?tcc⟩, encodedAs_of_decodeOneWord rfl, fun s => ?tcs⟩
  case tcc =>
    have hexec : exec .tcc s = .next { s with acc := (BitVec.ofBool s.cy).setWidth 4, cy := false } := rfl
    exact ⟨_, hexec, carry_setWidth_toNat s.cy, rfl⟩
  case tcs =>
    have hexec : exec .tcs s = .next { s with acc := carrySubtract s.cy, cy := false } := rfl
    exact ⟨_, hexec, carrySubtract_toNat s.cy, rfl⟩

/-- Settles O57: KBP writes the accumulator only, with the table's row. -/
theorem kbpConverts : Obligations.KbpConverts := by
  refine ⟨encodedAs_of_decodeOneWord rfl, fun s => ?_⟩
  have hexec : exec .kbp s = .next { s with acc := keyboardCode s.acc } := rfl
  exact ⟨_, hexec, rfl, keyboardCode_eq_table s.acc⟩

end Sys2Proof.Accumulator

namespace Sys2Proof.RoundTrip

open Sys2Proof.Machine Sys2Proof.OneWordBasic Sys2Proof.TwoWord

/-! ### Encodings with operands (30_encoding.md R92, R95) -/

/-- The first word of JUN and JMS carries the address bits 11:8 (R92). -/
theorem word4_addr_eq_ofNat (opr : Nibble) (a12 : Addr) :
    word4 opr (a12.extractLsb' 8 4) = BitVec.ofNat 8 (16 * opr.toNat + a12.toNat / 256) := by
  have hpage : (a12.extractLsb' 8 4).toNat = a12.toNat / 256 := by
    have hlt := a12.isLt
    rw [BitVec.extractLsb'_toNat, Nat.shiftRight_eq_div_pow]
    omega
  rw [word4_eq_ofNat, hpage]

/-- A program address without its page is its low eight bits. -/
theorem setWidth8_eq_ofNat (a12 : Addr) : a12.setWidth 8 = BitVec.ofNat 8 (a12.toNat % 256) :=
  BitVec.eq_of_toNat_eq (by simp)

/-- An instruction with a program address, from its OPR. -/
theorem encodedAs_of_opr_addr {opr : Nibble} {a12 : Addr} {i : Instr}
    (henc : encode i = [word4 opr (a12.extractLsb' 8 4), a12.setWidth 8])
    (hdec : decodeTwoWord (word4 opr (a12.extractLsb' 8 4)) (a12.setWidth 8) = some i) :
    EncodedAs i [BitVec.ofNat 8 (16 * opr.toNat + a12.toNat / 256), BitVec.ofNat 8 (a12.toNat % 256)] :=
  word4_addr_eq_ofNat opr a12 ▸ setWidth8_eq_ofNat a12 ▸ encodedAs_of_decodeTwoWord henc hdec

/-- An instruction with a 4-bit operand in its first word and eight bits in its second, from its OPR. -/
theorem encodedAs_of_opr_opa_second {opr opa : Nibble} {w2 : Byte} {i : Instr}
    (henc : encode i = [word4 opr opa, w2]) (hdec : decodeTwoWord (word4 opr opa) w2 = some i) :
    EncodedAs i [BitVec.ofNat 8 (16 * opr.toNat + opa.toNat), w2] :=
  word4_eq_ofNat opr opa ▸ encodedAs_of_decodeTwoWord henc hdec

theorem encodedAs_jun (a12 : Addr) :
    EncodedAs (.jun a12) [BitVec.ofNat 8 (0x40 + a12.toNat / 256), BitVec.ofNat 8 (a12.toNat % 256)] :=
  encodedAs_of_opr_addr (opr := 0x4) rfl (by simp [decodeTwoWord])

theorem encodedAs_jms (a12 : Addr) :
    EncodedAs (.jms a12) [BitVec.ofNat 8 (0x50 + a12.toNat / 256), BitVec.ofNat 8 (a12.toNat % 256)] :=
  encodedAs_of_opr_addr (opr := 0x5) rfl (by simp [decodeTwoWord])

theorem encodedAs_jcn (c : Nibble) (a8 : Byte) : EncodedAs (.jcn c a8) [BitVec.ofNat 8 (0x10 + c.toNat), a8] :=
  encodedAs_of_opr_opa_second (opr := 0x1) rfl (by simp [decodeTwoWord])

theorem encodedAs_isz (r : Nibble) (a8 : Byte) : EncodedAs (.isz r a8) [BitVec.ofNat 8 (0x70 + r.toNat), a8] :=
  encodedAs_of_opr_opa_second (opr := 0x7) rfl (by simp [decodeTwoWord])

/-- A one-word instruction on a pair, from its OPR and its last bit (R100). -/
theorem encodedAs_of_opr_pair {opr : Nibble} {p : PairAddr} {b : BitVec 1} {i : Instr}
    (h : decodeOneWord (wordPair opr p b) = some i) :
    EncodedAs i [BitVec.ofNat 8 (16 * opr.toNat + 2 * p.toNat + b.toNat)] :=
  wordPair_eq_ofNat opr p b ▸ encodedAs_of_decodeOneWord h

theorem encodedAs_fin (p : PairAddr) : EncodedAs (.fin p) [BitVec.ofNat 8 (0x30 + 2 * p.toNat)] :=
  encodedAs_of_opr_pair (opr := 0x3) (p := p) (b := 0) (by simp [decodeOneWord])

theorem encodedAs_src (p : PairAddr) : EncodedAs (.src p) [BitVec.ofNat 8 (0x21 + 2 * p.toNat)] := by
  rw [Nat.add_right_comm 0x20 1]
  exact encodedAs_of_opr_pair (opr := 0x2) (p := p) (b := 1) (by simp [decodeOneWord])

theorem encodedAs_jin (p : PairAddr) : EncodedAs (.jin p) [BitVec.ofNat 8 (0x31 + 2 * p.toNat)] := by
  rw [Nat.add_right_comm 0x30 1]
  exact encodedAs_of_opr_pair (opr := 0x3) (p := p) (b := 1) (by simp [decodeOneWord])

/-! ### Every instruction has an encoding that decodes to it -/

/-- What `EncodedAs` says of the words that the encoder writes, from any words known to be the encoding. -/
theorem encodedAs_encode_of {i : Instr} {ws : List Byte} (h : EncodedAs i ws) : EncodedAs i (encode i) := by
  obtain ⟨rfl, hdecode⟩ := h
  exact ⟨rfl, hdecode⟩

/-- The words that the encoder writes for an instruction are an encoding of it: by the word or the first word of each
row of the opcode table. -/
theorem encodedAs_encode (i : Instr) : EncodedAs i (encode i) := by
  cases i with
  | jcn c a8 => exact encodedAs_encode_of (encodedAs_jcn c a8)
  | fim p d8 => exact encodedAs_encode_of (encodedAs_fim p d8)
  | jun a12 => exact encodedAs_encode_of (encodedAs_jun a12)
  | jms a12 => exact encodedAs_encode_of (encodedAs_jms a12)
  | isz r a8 => exact encodedAs_encode_of (encodedAs_isz r a8)
  | src p => exact encodedAs_encode_of (encodedAs_src p)
  | fin p => exact encodedAs_encode_of (encodedAs_fin p)
  | jin p => exact encodedAs_encode_of (encodedAs_jin p)
  | inc r => exact encodedAs_of_decodeOneWord (w := word4 0x6 r) (by simp [decodeOneWord])
  | add r => exact encodedAs_of_decodeOneWord (w := word4 0x8 r) (by simp [decodeOneWord])
  | sub r => exact encodedAs_of_decodeOneWord (w := word4 0x9 r) (by simp [decodeOneWord])
  | ld r => exact encodedAs_of_decodeOneWord (w := word4 0xA r) (by simp [decodeOneWord])
  | xch r => exact encodedAs_of_decodeOneWord (w := word4 0xB r) (by simp [decodeOneWord])
  | bbl d => exact encodedAs_of_decodeOneWord (w := word4 0xC d) (by simp [decodeOneWord])
  | ldm d => exact encodedAs_of_decodeOneWord (w := word4 0xD d) (by simp [decodeOneWord])
  | _ => exact encodedAs_of_decodeOneWord rfl

/-- Settles O3, by `encodedAs_encode`. -/
theorem decodeOfEncode : Obligations.DecodeOfEncode := by
  intro i rest
  obtain ⟨-, hdecode⟩ := encodedAs_encode i
  exact hdecode rest

/-! ### What decodes was encoded -/

/-- A first word of OPR 2 with its last bit 0 is the one that FIM's pair gives (R100). -/
theorem wordPair_pairField {w : Byte} (hbit : w[0] = false) : wordPair w.high (pairField w) 0#1 = w := by
  revert w
  decide

/-- A two-word instruction is encoded as the words it was decoded from. -/
theorem encode_of_decodeTwoWord {w1 w2 : Byte} {i : Instr} (h : decodeTwoWord w1 w2 = some i) :
    encode i = [w1, w2] := by
  have hfirst := word4_high_low w1
  unfold decodeTwoWord at h
  split at h
  case h_2 hopr =>
    cases hbit : w1[0] with
    | false =>
      rw [hbit, if_neg Bool.false_ne_true, Option.some.injEq] at h
      rw [← h, encode, ← hopr, wordPair_pairField hbit]
    | true => simp [hbit] at h
  case h_6 => cases h
  all_goals
    next hopr =>
      rw [hopr] at hfirst
      rw [Option.some.injEq] at h
      simp [← h, encode, hfirst]

/-- Decoding gives an instruction from one word, or from two when the first one says so (R93). -/
theorem decode_ok_cases {ws rest : List Byte} {i : Instr} (h : decode ws = .ok i rest) :
    (∃ w1, ws = w1 :: rest ∧ decodeOneWord w1 = some i) ∨
      ∃ w1 w2, ws = w1 :: w2 :: rest ∧ decodeTwoWord w1 w2 = some i := by
  unfold decode at h
  split at h
  case h_1 => cases h
  case h_2 w1 rest1 =>
    split at h
    · split at h
      · cases h
      · split at h
        case h_1 hdec =>
          cases h
          exact .inr ⟨_, _, rfl, hdec⟩
        case h_2 => cases h
    · split at h
      case h_1 hdec =>
        cases h
        exact .inl ⟨_, rfl, hdec⟩
      case h_2 => cases h

/-- Settles O4: both decoders only read words that the encoder writes. -/
theorem encodeOfDecode : Obligations.EncodeOfDecode := by
  intro ws rest i h
  obtain ⟨w1, rfl, hdec⟩ | ⟨w1, w2, rfl, hdec⟩ := decode_ok_cases h
  · rw [encode_of_decodeOneWord w1 i hdec, List.singleton_append]
  · rw [encode_of_decodeTwoWord hdec, List.cons_append, List.singleton_append]

/-! ### The first word decides (R93, R101) -/

/-- The first words that take a second one, by their values. -/
theorem isTwoWord_iff (w : Byte) :
    isTwoWord w = true ↔
      0x10 ≤ w.toNat ∧ w.toNat < 0x20 ∨ 0x20 ≤ w.toNat ∧ w.toNat < 0x30 ∧ w.toNat % 2 = 0 ∨
        0x40 ≤ w.toNat ∧ w.toNat < 0x60 ∨ 0x70 ≤ w.toNat ∧ w.toNat < 0x80 := by
  revert w
  decide

/-- With the first word of a two-word instruction any second word decodes. -/
theorem exists_decodeTwoWord {w1 : Byte} (h : isTwoWord w1 = true) (w2 : Byte) :
    ∃ i, decodeTwoWord w1 w2 = some i := by
  simp only [isTwoWord, Bool.or_eq_true, Bool.and_eq_true, beq_iff_eq, Bool.not_eq_true'] at h
  obtain (((hopr | hopr) | hopr) | hopr) | ⟨hopr, hbit⟩ := h
  case inr => exact ⟨.fim (pairField w1) w2, by simp [decodeTwoWord, hopr, hbit]⟩
  all_goals exact ⟨_, by simp [decodeTwoWord, hopr]; rfl⟩

/-- A first word of one word decodes exactly when it is assigned. -/
theorem decodeOneWord_eq_none_iff {w1 : Byte} (h : isTwoWord w1 = false) :
    decodeOneWord w1 = none ↔ w1 = 0x0F ∨ w1 = 0xFE ∨ w1 = 0xFF := by
  revert w1
  decide

theorem decode_of_isTwoWord {w1 : Byte} (h : isTwoWord w1 = true) (w2 : Byte) (rest : List Byte) :
    ∃ i, decode (w1 :: w2 :: rest) = .ok i rest := by
  obtain ⟨i, hdec⟩ := exists_decodeTwoWord h w2
  exact ⟨i, by rw [decode_two h, hdec]⟩

/-- Settles O5: `isTwoWord` holds in the ranges, and whether a word decodes follows from it. -/
theorem firstWordDecidesLength : Obligations.FirstWordDecidesLength := by
  intro w1 w2 rest
  split
  case isTrue hrange =>
    have htwo := (isTwoWord_iff w1).2 hrange
    exact ⟨decode_of_isTwoWord htwo w2 rest, by simp [decode, htwo]⟩
  case isFalse hrange =>
    have hone : isTwoWord w1 = false := by rwa [← isTwoWord_iff, Bool.not_eq_true] at hrange
    intro hassigned
    cases hdec : decodeOneWord w1 with
    | some i => exact ⟨i, by rw [decode_one hone, hdec]⟩
    | none => exact absurd ((decodeOneWord_eq_none_iff hone).1 hdec) (by simpa using hassigned)

/-- A word assigned to nothing is no first word of two. -/
theorem isTwoWord_of_unassigned {w : Byte} (h : w = 0x0F ∨ w = 0xFE ∨ w = 0xFF) : isTwoWord w = false := by
  obtain rfl | rfl | rfl := h <;> rfl

/-- A word assigned to nothing is refused, whatever follows. -/
theorem decode_of_unassigned {w : Byte} (h : w = 0x0F ∨ w = 0xFE ∨ w = 0xFF) (rest : List Byte) :
    decode (w :: rest) = .invalid (.unassigned w) := by
  have hone := isTwoWord_of_unassigned h
  rw [decode_one hone, (decodeOneWord_eq_none_iff hone).2 h]

/-- Settles O6: of two words only those refuse that begin with a word that no one-word instruction has. -/
theorem unassignedFirstWords : Obligations.UnassignedFirstWords := by
  intro w1 w2 rest
  refine ⟨fun h => ?_, fun h => decode_of_unassigned h _⟩
  cases htwo : isTwoWord w1 with
  | true =>
    obtain ⟨i, hok⟩ := decode_of_isTwoWord htwo w2 rest
    rw [hok] at h
    cases h
  | false =>
    rw [decode_one htwo] at h
    split at h
    case h_1 => cases h
    case h_2 hnone => exact (decodeOneWord_eq_none_iff htwo).1 hnone

/-- Settles O2: each example is a closed fact about one or two words. -/
theorem exampleWordsDecode : Obligations.ExampleWordsDecode := by
  unfold Obligations.ExampleWordsDecode
  decide

end Sys2Proof.RoundTrip

namespace Sys2Proof.Frames

open Sys2Proof.Machine Sys2Proof.OneWordBasic

/-! ### Keeping the fields of a part

`Unchanged` compares what registers and memory read as. The updates keep more, the fields themselves, and an invariant
about the form of memory needs that. -/

/-- A part has the same fields in both states. -/
def Same (s t : State) : Part → Prop
  | .regs => t.irb0 = s.irb0 ∧ t.irb1 = s.irb1 ∧ t.irs = s.irs
  | .mem => t.mem = s.mem
  | p => Unchanged s t p

/-- Every part but those listed has the same fields. -/
def Keeps (parts : List Part) (s t : State) : Prop := ∀ p, p ∉ parts → Same s t p

theorem unchanged_of_same {s t : State} {p : Part} (h : Same s t p) : Unchanged s t p := by
  cases p
  case regs =>
    obtain ⟨h0, h1, hs⟩ := h
    exact reg_congr h0 h1 hs
  case mem => exact fun k => congrArg (Memory.read · k) h
  all_goals exact h

theorem onlyChanges_of_keeps {parts : List Part} {s t : State} (h : Keeps parts s t) : OnlyChanges parts s t :=
  fun p hp => unchanged_of_same (h p hp)

theorem same_trans {s t u : State} {p : Part} (h1 : Same s t p) (h2 : Same t u p) : Same s u p := by
  cases p
  case regs =>
    obtain ⟨h0, h1, hs⟩ := h1
    obtain ⟨k0, k1, ks⟩ := h2
    exact ⟨k0.trans h0, k1.trans h1, ks.trans hs⟩
  case stack =>
    obtain ⟨hsp, hstk⟩ := h1
    obtain ⟨ksp, kstk⟩ := h2
    exact ⟨ksp.trans hsp, fun i hi => (kstk i (hsp ▸ hi)).trans (hstk i hi)⟩
  case srcr =>
    obtain ⟨hsrcr, hloaded⟩ := h1
    obtain ⟨ksrcr, kloaded⟩ := h2
    exact ⟨ksrcr.trans hsrcr, kloaded.trans hloaded⟩
  all_goals exact Eq.trans h2 h1

theorem keeps_trans {parts : List Part} {s t u : State} (h1 : Keeps parts s t) (h2 : Keeps parts t u) :
    Keeps parts s u :=
  fun p hp => same_trans (h1 p hp) (h2 p hp)

theorem keeps_mono {parts parts' : List Part} {s t : State} (h : Keeps parts s t) (hsub : parts ⊆ parts') :
    Keeps parts' s t :=
  fun p hp => h p fun hmem => hp (hsub hmem)

/-- One update after another changes at most what the two may change. -/
theorem keeps_append {parts parts' : List Part} {s t u : State} (h1 : Keeps parts s t) (h2 : Keeps parts' t u) :
    Keeps (parts ++ parts') s u :=
  keeps_trans (keeps_mono h1 (List.subset_append_left _ _)) (keeps_mono h2 (List.subset_append_right _ _))

theorem keeps_self (parts : List Part) (s : State) : Keeps parts s s := by
  intro p _
  cases p <;> simp [Same, Unchanged]

/-! ### What each update keeps -/

theorem keeps_acc (s : State) (v : Nibble) : Keeps [.acc] s { s with acc := v } := by
  intro p hp
  cases p <;> simp_all [Same, Unchanged, State.pc]

theorem keeps_cy (s : State) (c : Bool) : Keeps [.cy] s { s with cy := c } := by
  intro p hp
  cases p <;> simp_all [Same, Unchanged, State.pc]

theorem keeps_fl (s : State) (f : Half) : Keeps [.fl] s { s with fl := f } := by
  intro p hp
  cases p <;> simp_all [Same, Unchanged, State.pc]

theorem keeps_mem (s : State) (m : Memory) : Keeps [.mem] s { s with mem := m } := by
  intro p hp
  cases p <;> simp_all [Same, Unchanged, State.pc]

theorem keeps_ie (s : State) (b : Bool) : Keeps [.ie] s { s with ie := b } := by
  intro p hp
  cases p <;> simp_all [Same, Unchanged, State.pc]

theorem keeps_rbs (s : State) (b : Bool) : Keeps [.rbs] s { s with rbs := b } := by
  intro p hp
  cases p <;> simp_all [Same, Unchanged, State.pc]

theorem keeps_cr (s : State) (v : Nibble) : Keeps [.cr] s { s with cr := v } := by
  intro p hp
  cases p <;> simp_all [Same, Unchanged, State.pc]

theorem keeps_dbcnt (s : State) (n : BitVec 2) : Keeps [.dbcnt] s { s with dbcnt := n } := by
  intro p hp
  cases p <;> simp_all [Same, Unchanged, State.pc]

theorem keeps_halt_stop (s : State) (h k : Bool) : Keeps [.halt, .stop] s { s with halt := h, stop := k } := by
  intro p hp
  cases p <;> simp_all [Same, Unchanged, State.pc]

theorem keeps_acc_cy (s : State) (v : Nibble) (c : Bool) : Keeps [.acc, .cy] s { s with acc := v, cy := c } :=
  keeps_append (keeps_acc s v) (keeps_cy _ c)

theorem keeps_acc_fl (s : State) (v : Nibble) (f : Half) : Keeps [.acc, .fl] s { s with acc := v, fl := f } :=
  keeps_append (keeps_acc s v) (keeps_fl _ f)

theorem keeps_mem_fl (s : State) (m : Memory) (f : Half) : Keeps [.mem, .fl] s { s with mem := m, fl := f } :=
  keeps_append (keeps_mem s m) (keeps_fl _ f)

theorem keeps_cr_dbcnt (s : State) (v : Nibble) (n : BitVec 2) :
    Keeps [.cr, .dbcnt] s { s with cr := v, dbcnt := n } :=
  keeps_append (keeps_cr s v) (keeps_dbcnt _ n)

theorem keeps_store (s : State) (l : Loc) (v : Nibble) : Keeps [.mem] s (s.store l v) := keeps_mem s _

theorem keeps_setX (s : State) (r v : Nibble) : Keeps [.regs] s (s.setX r v) := by
  intro p hp
  cases p <;> simp_all [Same, Unchanged]

theorem keeps_setXp (s : State) (p : PairAddr) (v : Byte) : Keeps [.regs] s (s.setXp p v) :=
  keeps_trans (keeps_setX s _ _) (keeps_setX _ _ _)

/-- A jump writes the selected register of the address stack only. -/
theorem keeps_setPc (s : State) (t : Addr) : Keeps [.pc] s (s.setPc t) := by
  intro p hp
  cases p <;> simp_all [Same, Unchanged]
  exact fun i hi => Vector.getElem_set_ne _ _ (Ne.symm hi)

theorem keeps_push (s : State) (t : Addr) : Keeps [.pc, .stack] s (s.push t) := by
  intro p hp
  cases p <;> simp_all [Same, Unchanged]

theorem keeps_pop (s : State) : Keeps [.pc, .stack] s s.pop := by
  intro p hp
  cases p <;> simp_all [Same, Unchanged]

theorem keeps_tick (s : State) : Keeps [.romb, .dbcnt] s s.tick := by
  intro p hp
  cases p <;> simp_all [Same, Unchanged]

theorem keeps_advance (s : State) : Keeps [.script, .draws] s s.advance := by
  intro p hp
  cases p <;> simp_all [Same, Unchanged]

theorem keeps_sendSrc (s : State) (a : Byte) : Keeps [.srcr, .sel] s (s.sendSrc a) := by
  intro p hp
  cases p <;> simp_all [Same, Unchanged]

theorem keeps_forcedJms (s : State) : Keeps [.pc, .stack, .inta, .rbsSaved, .halt, .stop] s s.forcedJms := by
  intro p hp
  cases p <;> simp_all [Same, Unchanged]

theorem keeps_returnFromInterrupt (s : State) : Keeps [.pc, .stack, .inta, .rbs, .sel] s s.returnFromInterrupt := by
  intro p hp
  cases p <;> simp_all [Same, Unchanged]

/-- A fetch passes a cycle and moves the program counter. -/
theorem keeps_fetched (s : State) : Keeps [.pc, .romb, .dbcnt] s s.fetched :=
  keeps_mono (keeps_append (keeps_tick s) (keeps_setPc _ _)) (by simp)

/-- Fetching an instruction, in one cycle or two, does no more. -/
theorem keeps_fetchInstr {s f : State} {i : Instr} (h : s.fetchInstr = .next (i, f)) :
    Keeps [.pc, .romb, .dbcnt] s f := by
  obtain rfl | rfl := fetchInstr_next h
  · exact keeps_fetched s
  · exact keeps_trans (keeps_fetched s) (keeps_fetched _)

/-! ### The shapes that a meaning can have -/

/-- The instruction, whenever it has a next state, keeps every part but its destinations. -/
def Framed (i : Instr) : Prop := ∀ s t, exec i s = .next t → Keeps (destinations i) s t

theorem framed_of_total {i : Instr} {f : State → State} (hexec : ∀ s, exec i s = .next (f s))
    (hf : ∀ s, Keeps (destinations i) s (f s)) : Framed i := by
  intro s t h
  rw [hexec s, Host.Outcome.next.injEq] at h
  exact h ▸ hf s

theorem framed_of_onRam {i : Instr} {act : State → RamSel → State} (hexec : ∀ s, exec i s = s.onRam (act s))
    (hact : ∀ s a, Keeps (destinations i) s (act s a)) : Framed i := by
  intro s t h
  obtain ⟨a, -, rfl⟩ := onRam_next ((hexec s).symm.trans h)
  exact hact s a

theorem framed_of_onRomPort {i : Instr} {act : State → BitVec 1 → Nibble → State}
    (hexec : ∀ s, exec i s = s.onRomPort (act s)) (hact : ∀ s b c, Keeps (destinations i) s (act s b c)) :
    Framed i := by
  intro s t h
  obtain ⟨addr, -, rfl⟩ := onRomPort_next ((hexec s).symm.trans h)
  exact hact s _ _

/-- The state after WPM has written its half of a word (41_one_word_4040.md R151). -/
def wpmResult (s : State) (l : Loc) : State :=
  { s with mem := s.mem.write l.key (withHalf s.movesHigh (s.mem.read l.key) s.acc), fl := s.fl.toggle }

theorem wpmResult_mem (s : State) (l : Loc) :
    (wpmResult s l).mem = s.mem.write l.key (withHalf s.movesHigh (s.mem.read l.key) s.acc) := rfl

theorem keeps_wpmResult (s : State) (l : Loc) : Keeps [.mem, .fl] s (wpmResult s l) := keeps_mem_fl s _ _

/-- The word that WPM wrote: the other half is as before. -/
theorem read_wpmResult {s : State} (hm : s.mem.sorted) (l : Loc) :
    (wpmResult s l).mem.read l.key = withHalf s.movesHigh (s.mem.read l.key) s.acc :=
  Memory.read_write_same hm l.key _

/-- WPM writes its half of the selected word and toggles F/L, or has no meaning. -/
theorem exec_wpm_next {s t : State} (h : exec .wpm s = .next t) :
    ∃ l, s.pramSel = .ok l ∧ t = wpmResult s l := by
  change execWpm s = .next t at h
  unfold execWpm at h
  split at h
  case h_1 => cases h
  case h_2 l hl => exact ⟨l, hl, (Host.Outcome.next.inj h).symm⟩

/-- RPM reads its half of the selected word and toggles F/L, or has no meaning (R152). -/
theorem exec_rpm_next {s t : State} (h : exec .rpm s = .next t) :
    ∃ l, s.pramSel = .ok l ∧ t = { s with acc := halfOf s.movesHigh (s.mem.read l.key), fl := s.fl.toggle } := by
  change execRpm s = .next t at h
  unfold execRpm at h
  split at h
  case h_1 => cases h
  case h_2 l hl => exact ⟨l, hl, (Host.Outcome.next.inj h).symm⟩

theorem exec_wrr (s : State) : exec .wrr s = s.onRomPort fun bank chip => s.store (.romPort bank chip) s.acc := rfl

/-- DB0 and DB1 write the command register and the delay, or have no meaning. -/
theorem framed_of_designateRomBank {i : Instr} {bank : BitVec 1}
    (hexec : ∀ s : State, exec i s = s.designateRomBank bank) (hdest : destinations i = [.cr, .dbcnt]) : Framed i := by
  intro s t h
  obtain ⟨-, rfl⟩ := designateRomBank_next s t bank ((hexec s).symm.trans h)
  exact hdest ▸ keeps_cr_dbcnt s _ _

/-- Every instruction keeps the fields of what its entry does not name (92 D1). -/
theorem framed (i : Instr) : Framed i := by
  cases i with
  | nop => exact framed_of_total (fun _ => rfl) fun s => keeps_self _ s
  | hlt => exact framed_of_total (fun _ => rfl) fun s => keeps_halt_stop s true true
  | bbs => exact framed_of_total (fun _ => rfl) keeps_returnFromInterrupt
  | lcr | or4 | or5 | an6 | an7 | ld | ldm | cma | kbp =>
    exact framed_of_total (fun _ => rfl) fun s => keeps_acc s _
  | db0 | db1 => exact framed_of_designateRomBank (fun _ => rfl) rfl
  | sb0 | sb1 => exact framed_of_total (fun _ => rfl) fun s => keeps_rbs s _
  | ein | din => exact framed_of_total (fun _ => rfl) fun s => keeps_ie s _
  | rpm =>
    intro s t h
    obtain ⟨l, -, rfl⟩ := exec_rpm_next h
    exact keeps_acc_fl s _ _
  | wpm =>
    intro s t h
    obtain ⟨l, -, rfl⟩ := exec_wpm_next h
    exact keeps_wpmResult s l
  | jcn | jin | jun => exact framed_of_total (fun _ => rfl) fun s => keeps_setPc s _
  | jms a12 => exact framed_of_total (fun _ => rfl) fun s => keeps_push s a12
  | bbl d =>
    exact framed_of_total (fun _ => rfl) fun s => keeps_append (keeps_pop s) (keeps_acc _ d)
  | fim p d8 => exact framed_of_total (fun _ => rfl) fun s => keeps_setXp s p d8
  | src p => exact framed_of_total (fun _ => rfl) fun s => keeps_sendSrc s _
  | fin p =>
    exact framed_of_total (fun _ => rfl) fun s =>
      keeps_mono (keeps_append (keeps_tick s) (keeps_setXp _ p _)) (by simp [destinations])
  | inc r => exact framed_of_total (fun _ => rfl) fun s => keeps_setX s r _
  | isz r a8 =>
    exact framed_of_total (fun _ => rfl) fun s => keeps_append (keeps_setX s r _) (keeps_setPc _ _)
  | xch r =>
    exact framed_of_total (fun _ => rfl) fun s =>
      keeps_mono (keeps_append (keeps_setX s r _) (keeps_acc _ _)) (by simp [destinations])
  | clc | cmc | stc => exact framed_of_total (fun _ => rfl) fun s => keeps_cy s _
  | add | sub | clb | iac | dac | ral | rar | tcc | tcs | daa =>
    exact framed_of_total (fun _ => rfl) fun s => keeps_acc_cy s _ _
  | adm | sbm => exact framed_of_onRam (fun _ => rfl) fun s _ => keeps_acc_cy s _ _
  | rdm | rd0 | rd1 | rd2 | rd3 => exact framed_of_onRam (fun _ => rfl) fun s _ => keeps_acc s _
  | wrm | wr0 | wr1 | wr2 | wr3 | wmp => exact framed_of_onRam (fun _ => rfl) fun s _ => keeps_store s _ s.acc
  | rdr => exact framed_of_onRomPort (fun _ => rfl) fun s _ _ => keeps_acc s _
  | wrr => exact framed_of_onRomPort (fun _ => rfl) fun s b c => keeps_store s (.romPort b c) s.acc
  | dcl => exact framed_of_total (fun _ => rfl) fun s => keeps_cr s _

/-- In the terms of the statements: whatever an instruction's entry does not name is unchanged. -/
theorem onlyChanges_of_exec {i : Instr} {s t : State} (h : exec i s = .next t) : OnlyChanges (destinations i) s t :=
  onlyChanges_of_keeps (framed i s t h)

/-- Settles O58, by `framed`. -/
theorem instructionsChangeOnlyDestinations : Obligations.InstructionsChangeOnlyDestinations :=
  fun _ _ _ h => onlyChanges_of_exec h

/-! ### Within the destinations -/

theorem regsUnchangedBut_setX (s : State) (r v : Nibble) : RegsUnchangedBut [s.regName r] s (s.setX r v) := by
  intro q hq
  rw [reg_setX, if_neg (by simpa using hq)]

theorem regsUnchangedBut_setXp (s : State) (p : PairAddr) (v : Byte) :
    RegsUnchangedBut [s.evenName p, s.oddName p] s (s.setXp p v) := by
  intro q hq
  obtain ⟨heven, hodd⟩ : q ≠ s.evenName p ∧ q ≠ s.oddName p := by simpa using hq
  rw [reg_setXp, if_neg hodd, if_neg heven]

theorem memUnchangedBut_store {s : State} (hm : s.mem.wf) (l : Loc) (v : Nibble) :
    MemUnchangedBut l s (s.store l v) :=
  fun _ hk => read_store_other s hm l v hk

theorem memUnchangedBut_write {s t : State} (hm : s.mem.wf) {l : Loc} {w : Byte} (ht : t.mem = s.mem.write l.key w) :
    MemUnchangedBut l s t := by
  intro k hk
  rw [ht, Memory.read_write_other (Memory.wf_sorted hm) hk]

/-- A store through the RAM selection changes at most the byte at its place. -/
theorem memUnchangedBut_of_onRam_store {s t : State} {a : RamSel} {place : RamSel → Loc} {i : Instr} (hm : s.mem.wf)
    (hsel : s.ramSel = .ok a) (hexec : exec i s = s.onRam fun a => s.store (place a) s.acc)
    (h : exec i s = .next t) : MemUnchangedBut (place a) s t := by
  obtain ⟨b, hb, rfl⟩ := onRam_next (hexec.symm.trans h)
  obtain rfl : a = b := Except.ok.inj (hsel.symm.trans hb)
  exact memUnchangedBut_store hm (place a) s.acc

/-- Settles O59: the register rules `reg_setX` and `reg_setXp`, the store rule `read_store_other`, the other half of
`withHalf`, and the stack rules `stackReg_push` and `stackReg_pop`, each where an instruction uses it. -/
theorem instructionsKeepTheRest : Obligations.InstructionsKeepTheRest := by
  refine ⟨?register, ?pair, ?ram, ?romPort, ?pram, ?push, ?pop⟩
  case register =>
    intro r a8 s t h q hq
    obtain h | h | h := h
    all_goals
      cases h
      exact (reg_congr rfl rfl rfl q).trans (regsUnchangedBut_setX s r _ q hq)
  case pair =>
    intro p d8 s t h
    obtain h | h := h
    all_goals cases h
    · exact regsUnchangedBut_setXp s p d8
    · exact regsUnchangedBut_setXp s.tick p _
  case ram =>
    intro s t a hm hsel
    refine ⟨?wrm, ?wr0, ?wr1, ?wr2, ?wr3, ?wmp⟩
    case wrm => exact memUnchangedBut_of_onRam_store (place := RamSel.main) hm hsel rfl
    case wr0 => exact memUnchangedBut_of_onRam_store (place := fun a => a.status 0) hm hsel rfl
    case wr1 => exact memUnchangedBut_of_onRam_store (place := fun a => a.status 1) hm hsel rfl
    case wr2 => exact memUnchangedBut_of_onRam_store (place := fun a => a.status 2) hm hsel rfl
    case wr3 => exact memUnchangedBut_of_onRam_store (place := fun a => a.status 3) hm hsel rfl
    case wmp => exact memUnchangedBut_of_onRam_store (place := fun a => .ramPort a.code a.chip) hm hsel rfl
  case romPort =>
    intro s t addr hm hsel h
    obtain ⟨addr', hsel', rfl⟩ := onRomPort_next ((exec_wrr s).symm.trans h)
    obtain rfl : addr = addr' := Except.ok.inj (hsel.symm.trans hsel')
    exact memUnchangedBut_store hm _ s.acc
  case pram =>
    intro s t l hm hsel h
    obtain ⟨l', hsel', rfl⟩ := exec_wpm_next h
    obtain rfl : l = l' := Except.ok.inj (hsel.symm.trans hsel')
    refine ⟨memUnchangedBut_write hm (wpmResult_mem s l), ?_⟩
    rw [read_wpmResult (Memory.wf_sorted hm), halfOf_not_withHalf]
  case push =>
    intro a12 s t h j hj
    cases h
    rw [stackReg_push, if_neg hj]
  case pop =>
    intro d s t h j
    obtain h | h := h
    all_goals
      cases h
      exact stackReg_pop s j

end Sys2Proof.Frames

namespace Sys2Proof.Invariants

open Sys2Proof.Machine Sys2Proof.OneWordBasic Sys2Proof.Frames

/-! ### What a step leaves alone unless it runs an instruction that writes it -/

/-- A halted step changes what interrupt entry, waking and a passing cycle change. -/
theorem keeps_haltedStep {s u : State} (h : s.haltedStep = .next u) :
    Keeps [.pc, .stack, .inta, .rbsSaved, .halt, .stop, .romb, .dbcnt] s u := by
  obtain ⟨-, -, rfl⟩ | rfl | rfl := haltedStep_next s u h
  · exact keeps_mono (keeps_append (keeps_tick s) (keeps_forcedJms _)) (by simp)
  · exact keeps_mono (keeps_append (keeps_tick s) (keeps_halt_stop _ false false)) (by simp)
  · exact keeps_mono (keeps_tick s) (by simp)

/-- A part that no event but reset touches is kept by a step, unless the step runs an instruction that names it. -/
theorem step_same {s t : State} {p : Part} (h : step s = .next t)
    (hp : p ∉ [.pc, .stack, .inta, .rbsSaved, .halt, .stop, .romb, .dbcnt, .script, .draws]) :
    (s.pins.resetIn = true ∧ t = s.resetEvent.advance) ∨ Same s t p ∨
      (s.runs ∧ ∃ i f u, s.fetchInstr = .next (i, f) ∧ exec i f = .next u ∧ t = u.advance ∧ Same s f p ∧
        p ∈ destinations i) := by
  simp only [List.mem_cons, List.not_mem_nil, or_false, not_or] at hp
  obtain ⟨u, rfl, ⟨hreset, rfl⟩ | ⟨-, -, hhalted⟩ | ⟨-, -, -, -, -, rfl⟩ | ⟨hruns, i, f, hf, hexec⟩⟩ := step_next h
  · exact .inl ⟨hreset, rfl⟩
  · exact .inr (.inl (same_trans (keeps_haltedStep hhalted p (by simp [hp])) (keeps_advance u p (by simp [hp]))))
  · exact .inr (.inl (same_trans (keeps_forcedJms s p (by simp [hp])) (keeps_advance _ p (by simp [hp]))))
  · have hfetch : Same s f p := keeps_fetchInstr hf p (by simp [hp])
    by_cases hdest : p ∈ destinations i
    · exact .inr (.inr ⟨hruns, i, f, u, hf, hexec, rfl, hfetch, hdest⟩)
    · have hinstr := same_trans hfetch (framed i f u hexec p hdest)
      exact .inr (.inl (same_trans hinstr (keeps_advance u p (by simp [hp]))))

/-! ### The instructions that name a part as a destination -/

theorem ie_mem_destinations {i : Instr} (h : .ie ∈ destinations i) : i = .ein ∨ i = .din := by
  cases i <;> simp_all [destinations]

theorem inta_mem_destinations {i : Instr} (h : .inta ∈ destinations i) : i = .bbs := by
  cases i <;> simp_all [destinations]

theorem cr_mem_destinations {i : Instr} (h : .cr ∈ destinations i) : i = .db0 ∨ i = .db1 ∨ i = .dcl := by
  cases i <;> simp_all [destinations]

theorem mem_mem_destinations {i : Instr} (h : .mem ∈ destinations i) :
    i = .wpm ∨ i = .wrr ∨ i ∈ [.wrm, .wr0, .wr1, .wr2, .wr3, .wmp] := by
  cases i <;> simp_all [destinations]

theorem plat_not_mem_destinations (i : Instr) : .plat ∉ destinations i := by
  cases i <;> simp [destinations]

/-! ### Memory -/

/-- Memory is as before, or one cell was written: one that the canonical form allows, outside the ROM image. -/
def StoresOutsideRom (s t : State) : Prop :=
  t.mem = s.mem ∨ ∃ l w, cellAllowed (Loc.key l, w) ∧ (∀ bank a, l ≠ .rom bank a) ∧ t.mem = s.mem.write l.key w

theorem storesOutsideRom_store (s : State) {l : Loc} (v : Nibble) (hl : ∀ bank a, l ≠ .rom bank a) :
    StoresOutsideRom s (s.store l v) := by
  unfold StoresOutsideRom
  rw [store_mem]
  split
  · exact .inr ⟨l, _, cellAllowed_char l v, hl, rfl⟩
  · exact .inl rfl

/-- A store through the RAM selection writes a place that is no ROM image. -/
theorem storesOutsideRom_of_onRam {s t : State} {i : Instr} {place : RamSel → Loc}
    (hexec : exec i s = s.onRam fun a => s.store (place a) s.acc) (hplace : ∀ a bank addr, place a ≠ .rom bank addr)
    (h : exec i s = .next t) : StoresOutsideRom s t := by
  obtain ⟨a, -, rfl⟩ := onRam_next (hexec.symm.trans h)
  exact storesOutsideRom_store s s.acc (hplace a)

/-- What an instruction can do to memory: WPM writes a word of program RAM, the other stores a character. -/
theorem exec_storesOutsideRom {i : Instr} {s t : State} (h : exec i s = .next t) : StoresOutsideRom s t := by
  by_cases hdest : .mem ∈ destinations i
  case neg => exact .inl (framed i s t h .mem hdest)
  case pos =>
    obtain rfl | rfl | hram := mem_mem_destinations hdest
    · obtain ⟨l, hl, rfl⟩ := exec_wpm_next h
      obtain ⟨addr, rfl, -⟩ := pramSel_ok hl
      exact .inr ⟨_, _, cellAllowed_word _ rfl _, by simp, wpmResult_mem s _⟩
    · obtain ⟨addr, -, rfl⟩ := onRomPort_next ((exec_wrr s).symm.trans h)
      exact storesOutsideRom_store s s.acc (by simp)
    · simp only [List.mem_cons, List.not_mem_nil, or_false] at hram
      obtain rfl | rfl | rfl | rfl | rfl | rfl := hram
      · exact storesOutsideRom_of_onRam (place := RamSel.main) rfl (by simp [RamSel.main]) h
      · exact storesOutsideRom_of_onRam (place := fun a => a.status 0) rfl (by simp [RamSel.status]) h
      · exact storesOutsideRom_of_onRam (place := fun a => a.status 1) rfl (by simp [RamSel.status]) h
      · exact storesOutsideRom_of_onRam (place := fun a => a.status 2) rfl (by simp [RamSel.status]) h
      · exact storesOutsideRom_of_onRam (place := fun a => a.status 3) rfl (by simp [RamSel.status]) h
      · exact storesOutsideRom_of_onRam (place := fun a => .ramPort a.code a.chip) rfl (by simp) h

/-- What a step can do to memory. -/
theorem step_storesOutsideRom {s t : State} (h : step s = .next t) : StoresOutsideRom s t := by
  obtain ⟨-, rfl⟩ | hsame | ⟨-, i, f, u, -, hexec, rfl, hf, -⟩ := step_same (p := .mem) h (by simp)
  · exact .inl rfl
  · exact .inl hsame
  · have hmem : f.mem = s.mem := hf
    have hstores := exec_storesOutsideRom hexec
    unfold StoresOutsideRom at hstores
    rwa [hmem] at hstores

/-- Settles O12: a step writes at most one cell, and an allowed one (`step_storesOutsideRom`, `Memory.wf_write`). -/
theorem stepKeepsMemoryCanonical : Obligations.StepKeepsMemoryCanonical := by
  intro s t hm h
  obtain hsame | ⟨l, w, hcell, -, hwrite⟩ := step_storesOutsideRom h
  · exact hsame ▸ hm
  · exact hwrite ▸ Memory.wf_write hm hcell

/-! ### The keys of the six spaces (20_memory.md R60) -/

/-- The first key of a tagged address's space, and the first key after it. -/
def spaceBounds : Loc → Nat × Nat
  | .rom _ _ => (0, 0x2000)
  | .pram _ _ => (0x2000, 0x3000)
  | .ramm _ _ _ _ => (0x3000, 0x3800)
  | .rams _ _ _ _ => (0x3800, 0x3A00)
  | .ramPort _ _ => (0x3A00, 0x3A20)
  | .romPort _ _ => (0x3A20, 0x3A40)

/-- A key lies in its space. -/
theorem key_mem_space (l : Loc) : (spaceBounds l).1 ≤ l.key ∧ l.key < (spaceBounds l).2 := by
  cases l with
  | rom b a => have := (b ++ a).isLt; simp [Loc.key, spaceBounds]; omega
  | pram e a => have := (e ++ a).isLt; simp [Loc.key, spaceBounds]; omega
  | ramm c h r k => have := (c ++ h ++ r ++ k).isLt; simp [Loc.key, spaceBounds]; omega
  | rams c h r k => have := (c ++ h ++ r ++ k).isLt; simp [Loc.key, spaceBounds]; omega
  | ramPort c h => have := (c ++ h).isLt; simp [Loc.key, spaceBounds]; omega
  | romPort b h => have := (b ++ h).isLt; simp [Loc.key, spaceBounds]; omega

/-- Spaces that do not meet share no key. -/
theorem key_ne_of_space {l l' : Loc}
    (h : (spaceBounds l).2 ≤ (spaceBounds l').1 ∨ (spaceBounds l').2 ≤ (spaceBounds l).1) : l.key ≠ l'.key := by
  have hl := key_mem_space l
  have hl' := key_mem_space l'
  omega

/-- Within a space the key is the space's base plus the joined fields, so it gives the fields back. -/
theorem key_inj {l l' : Loc} (h : l.key = l'.key) : l = l' := by
  cases l with
  | rom b a =>
    cases l' with
    | rom b' a' =>
      obtain ⟨rfl, rfl⟩ := append_inj (BitVec.eq_of_toNat_eq h)
      rfl
    | _ => exact absurd h (key_ne_of_space (by simp [spaceBounds]))
  | pram e a =>
    cases l' with
    | pram e' a' =>
      obtain ⟨rfl, rfl⟩ := append_inj (BitVec.eq_of_toNat_eq (Nat.add_left_cancel h))
      rfl
    | _ => exact absurd h (key_ne_of_space (by simp [spaceBounds]))
  | ramm c n r k =>
    cases l' with
    | ramm c' n' r' k' =>
      obtain ⟨h3, rfl⟩ := append_inj (BitVec.eq_of_toNat_eq (Nat.add_left_cancel h))
      obtain ⟨h2, rfl⟩ := append_inj h3
      obtain ⟨rfl, rfl⟩ := append_inj h2
      rfl
    | _ => exact absurd h (key_ne_of_space (by simp [spaceBounds]))
  | rams c n r k =>
    cases l' with
    | rams c' n' r' k' =>
      obtain ⟨h3, rfl⟩ := append_inj (BitVec.eq_of_toNat_eq (Nat.add_left_cancel h))
      obtain ⟨h2, rfl⟩ := append_inj h3
      obtain ⟨rfl, rfl⟩ := append_inj h2
      rfl
    | _ => exact absurd h (key_ne_of_space (by simp [spaceBounds]))
  | ramPort c n =>
    cases l' with
    | ramPort c' n' =>
      obtain ⟨rfl, rfl⟩ := append_inj (BitVec.eq_of_toNat_eq (Nat.add_left_cancel h))
      rfl
    | _ => exact absurd h (key_ne_of_space (by simp [spaceBounds]))
  | romPort b n =>
    cases l' with
    | romPort b' n' =>
      obtain ⟨rfl, rfl⟩ := append_inj (BitVec.eq_of_toNat_eq (Nat.add_left_cancel h))
      rfl
    | _ => exact absurd h (key_ne_of_space (by simp [spaceBounds]))

/-- Settles O19, by `key_inj`. -/
theorem taggedAddressesDoNotOverlap : Obligations.TaggedAddressesDoNotOverlap := fun _ _ => key_inj

/-- Settles O14: no instruction names the platform, and the one cell that a step may write is not the image's, whose
keys are its own. -/
theorem stepNeverWritesRom : Obligations.StepNeverWritesRom := by
  intro s t hm h
  refine ⟨?plat, fun bank a => ?rom⟩
  case plat =>
    obtain ⟨-, rfl⟩ | hsame | ⟨-, i, -, -, -, -, -, -, hdest⟩ := step_same (p := .plat) h (by simp)
    · rfl
    · exact hsame
    · exact absurd hdest (plat_not_mem_destinations i)
  case rom =>
    obtain hsame | ⟨l, w, -, hrom, hwrite⟩ := step_storesOutsideRom h
    · rw [hsame]
    · have hkey : (Loc.rom bank a).key ≠ l.key := fun hkey => hrom bank a (key_inj hkey).symm
      rw [hwrite, Memory.read_write_other (Memory.wf_sorted hm) hkey]

/-! ### HALT, STOP and the activated ROM bank -/

/-- The flip-flops stay consistent where their five parts are kept. -/
theorem flipFlopsConsistent_of_keeps {parts : List Part} {s t : State} (hs : s.flipFlopsConsistent)
    (h : Keeps parts s t) (hp : ∀ p ∈ [.halt, .stop, .cr, .romb, .dbcnt], p ∉ parts) : t.flipFlopsConsistent := by
  have hhalt : t.halt = s.halt := h .halt (hp _ (by simp))
  have hstop : t.stop = s.stop := h .stop (hp _ (by simp))
  have hcr : t.cr = s.cr := h .cr (hp _ (by simp))
  have hromb : t.romb = s.romb := h .romb (hp _ (by simp))
  have hdbcnt : t.dbcnt = s.dbcnt := h .dbcnt (hp _ (by simp))
  unfold State.flipFlopsConsistent State.cr3
  rwa [hhalt, hstop, hcr, hromb, hdbcnt]

/-- The cycle that ends a bank change activates the designated bank (70_reset_and_hazards.md R287). -/
theorem flipFlopsConsistent_tick {s : State} (h : s.flipFlopsConsistent) : s.tick.flipFlopsConsistent := by
  obtain ⟨hhalt, hbank⟩ := h
  refine ⟨hhalt, fun hzero => ?_⟩
  have hcount : ∀ n : BitVec 2, (if n = 0 then 0 else n - 1) = 0 → n = 0 ∨ n = 1 := by decide
  rw [tick_romb, tick_cr3]
  obtain h0 | h1 := hcount s.dbcnt hzero
  · rw [if_neg (by simp [h0]), hbank h0]
  · rw [if_pos h1]

theorem flipFlopsConsistent_fetched {s : State} (h : s.flipFlopsConsistent) : s.fetched.flipFlopsConsistent :=
  flipFlopsConsistent_of_keeps (flipFlopsConsistent_tick h) (keeps_setPc s.tick (s.pc + 1)) (by simp)

theorem flipFlopsConsistent_fetchInstr {s f : State} {i : Instr} (h : s.flipFlopsConsistent)
    (hf : s.fetchInstr = .next (i, f)) : f.flipFlopsConsistent := by
  obtain rfl | rfl := fetchInstr_next hf
  · exact flipFlopsConsistent_fetched h
  · exact flipFlopsConsistent_fetched (flipFlopsConsistent_fetched h)

/-- The entry clears both flip-flops and happens with no bank change pending. -/
theorem flipFlopsConsistent_forcedJms {s : State} (h : s.flipFlopsConsistent) : s.forcedJms.flipFlopsConsistent := by
  obtain ⟨-, hbank⟩ := h
  exact ⟨rfl, hbank⟩

theorem flipFlopsConsistent_wake {s : State} (h : s.flipFlopsConsistent) : s.wake.flipFlopsConsistent := by
  obtain ⟨-, hbank⟩ := h
  exact ⟨rfl, hbank⟩

theorem cr3_append (bank : BitVec 1) (code : BitVec 3) : (bank ++ code).extractLsb' 3 1 = bank := by
  revert bank code
  decide

theorem cm_append (bank : BitVec 1) (code : BitVec 3) : (bank ++ code).setWidth 3 = code := by
  revert bank code
  decide

/-- DCL keeps the designated bank (44_accumulator.md R233). -/
theorem cr3_dcl (s : State) : { s with cr := s.cr3 ++ s.acc.setWidth 3 }.cr3 = s.cr3 := cr3_append _ _

theorem cm_dcl (s : State) : { s with cr := s.cr3 ++ s.acc.setWidth 3 }.cm = s.acc.setWidth 3 := cm_append _ _

/-- The instructions that name one of the five parts. -/
theorem flipFlop_destinations (i : Instr) :
    i = .hlt ∨ i = .db0 ∨ i = .db1 ∨ i = .dcl ∨ (∃ p, i = .fin p) ∨
      ∀ p ∈ [.halt, .stop, .cr, .romb, .dbcnt], p ∉ destinations i := by
  cases i <;> simp [destinations]

/-- After DB0 and DB1 a change is pending, so nothing is said of the activated bank. -/
theorem flipFlopsConsistent_designateRomBank {s t : State} {bank : BitVec 1} (h : s.flipFlopsConsistent)
    (hexec : s.designateRomBank bank = .next t) : t.flipFlopsConsistent := by
  obtain ⟨hhalt, -⟩ := h
  obtain ⟨-, rfl⟩ := designateRomBank_next s t bank hexec
  exact ⟨hhalt, fun hzero => absurd (a := (3 : BitVec 2) = 0) hzero (by decide)⟩

theorem flipFlopsConsistent_exec {i : Instr} {s t : State} (h : s.flipFlopsConsistent) (hexec : exec i s = .next t) :
    t.flipFlopsConsistent := by
  obtain rfl | rfl | rfl | rfl | ⟨p, rfl⟩ | hother := flipFlop_destinations i
  · cases hexec
    obtain ⟨-, hbank⟩ := h
    exact ⟨rfl, hbank⟩
  · exact flipFlopsConsistent_designateRomBank (bank := 0) h hexec
  · exact flipFlopsConsistent_designateRomBank (bank := 1) h hexec
  · cases hexec
    obtain ⟨hhalt, hbank⟩ := h
    exact ⟨hhalt, fun hzero => (hbank hzero).trans (cr3_dcl s).symm⟩
  · cases hexec
    exact flipFlopsConsistent_of_keeps (flipFlopsConsistent_tick h) (keeps_setXp s.tick p _) (by simp)
  · exact flipFlopsConsistent_of_keeps h (framed i s t hexec) hother

theorem flipFlopsConsistent_resetEvent (s : State) : s.resetEvent.flipFlopsConsistent := by
  have hbank : (0 : BitVec 1) = (0b0000 : Nibble).extractLsb' 3 1 := by decide
  exact ⟨rfl, fun _ => hbank⟩

/-- Settles O13: `flipFlopsConsistent` is kept by a cycle, by each event and by each instruction, and these make up a
step. -/
theorem stepKeepsFlipFlopsConsistent : Obligations.StepKeepsFlipFlopsConsistent := by
  intro s t hs h
  obtain ⟨u, rfl, hu⟩ := step_next h
  refine flipFlopsConsistent_of_keeps (s := u) ?_ (keeps_advance u) (by simp)
  obtain ⟨-, rfl⟩ | ⟨-, -, hhalted⟩ | ⟨-, -, -, -, -, rfl⟩ | ⟨-, i, f, hf, hexec⟩ := hu
  · exact flipFlopsConsistent_resetEvent s
  · have htick := flipFlopsConsistent_tick hs
    obtain ⟨-, -, rfl⟩ | rfl | rfl := haltedStep_next s u hhalted
    · exact flipFlopsConsistent_forcedJms htick
    · exact flipFlopsConsistent_wake htick
    · exact htick
  · exact flipFlopsConsistent_forcedJms hs
  · exact flipFlopsConsistent_exec (flipFlopsConsistent_fetchInstr hs hf) hexec

/-! ### The writers of IE, INTA and the command register -/

/-- Settles O16: of the parts that `step_same` speaks of, IE is named by EIN and DIN only. -/
theorem onlyEinDinAndResetWriteIe : Obligations.OnlyEinDinAndResetWriteIe := by
  intro s t h hne
  obtain ⟨hreset, -⟩ | hsame | ⟨hruns, i, f, u, hf, hexec, rfl, -, hdest⟩ := step_same (p := .ie) h (by simp)
  · exact .inl hreset
  · exact absurd hsame hne
  · refine .inr ⟨hruns, i, f, hf, ?_⟩
    obtain rfl | rfl := ie_mem_destinations hdest
    all_goals cases hexec
    · exact .inl ⟨rfl, rfl⟩
    · exact .inr ⟨rfl, rfl⟩

/-- A halted step leaves INTA alone or takes a recognised interrupt. -/
theorem haltedStep_inta {s u : State} (h : s.haltedStep = .next u) :
    u.inta = s.inta ∨ s.interruptRecognised = true ∧ u.inta = true := by
  obtain ⟨hint, -, rfl⟩ | rfl | rfl := haltedStep_next s u h
  · exact .inr ⟨hint, rfl⟩
  · exact .inl rfl
  · exact .inl rfl

/-- What a step can do to INTA: reset and BBS clear it, a recognised interrupt sets it. -/
theorem step_inta {s t : State} (h : step s = .next t) :
    t.inta = s.inta ∨ (s.interruptRecognised = true ∧ t.inta = true) ∨
      t.inta = false ∧ (s.pins.resetIn = true ∨ s.runs ∧ ∃ f, s.fetchInstr = .next (.bbs, f)) := by
  obtain ⟨u, rfl, ⟨hreset, rfl⟩ | ⟨-, -, hhalted⟩ | ⟨-, -, -, hint, -, rfl⟩ | ⟨hruns, i, f, hf, hexec⟩⟩ := step_next h
  · exact .inr (.inr ⟨rfl, .inl hreset⟩)
  · exact (haltedStep_inta hhalted).imp_right .inl
  · exact .inr (.inl ⟨hint, rfl⟩)
  · have hfetch : f.inta = s.inta := keeps_fetchInstr hf .inta (by simp)
    by_cases hdest : .inta ∈ destinations i
    · obtain rfl := inta_mem_destinations hdest
      cases hexec
      exact .inr (.inr ⟨rfl, .inr ⟨hruns, f, hf⟩⟩)
    · have hinstr : u.inta = f.inta := framed i f u hexec .inta hdest
      exact .inl (hinstr.trans hfetch)

/-- Settles O17, by `step_inta`. -/
theorem onlyBbsAndResetClearInta : Obligations.OnlyBbsAndResetClearInta := by
  intro s t h
  obtain hsame | ⟨hint, hon⟩ | ⟨hoff, hcause⟩ := step_inta h
  · refine ⟨fun hs ht => ?_, fun hs ht => ?_⟩ <;> simp_all
  · exact ⟨fun _ ht => absurd (hon.symm.trans ht) (by decide), fun _ _ => hint⟩
  · exact ⟨fun _ _ => hcause, fun _ ht => absurd (hoff.symm.trans ht) (by decide)⟩

/-- DB0 and DB1 write the designated bank and no other bit of the command register (R147, R148). -/
theorem designateRomBank_cr {s t : State} {bank : BitVec 1} (h : s.designateRomBank bank = .next t) :
    t.cr3 = bank ∧ t.cm = s.cm := by
  obtain ⟨-, rfl⟩ := designateRomBank_next s t bank h
  exact ⟨cr3_append _ _, cm_append _ _⟩

/-- What a step can do to the command register. -/
theorem step_cr {s t : State} (h : step s = .next t) :
    s.pins.resetIn = true ∨ t.cr = s.cr ∨ s.runs ∧ ∃ i f, s.fetchInstr = .next (i, f) ∧
      ((i = .db0 ∧ t.cr3 = 0 ∨ i = .db1 ∧ t.cr3 = 1) ∧ t.cm = s.cm ∨ i = .dcl ∧ t.cr3 = s.cr3) := by
  obtain ⟨hreset, -⟩ | hsame | ⟨hruns, i, f, u, hf, hexec, rfl, hcr, hdest⟩ := step_same (p := .cr) h (by simp)
  · exact .inl hreset
  · exact .inr (.inl hsame)
  · have hcm : f.cm = s.cm := congrArg (BitVec.setWidth 3) hcr
    have hcr3 : f.cr3 = s.cr3 := congrArg (BitVec.extractLsb' 3 1) hcr
    refine .inr (.inr ⟨hruns, i, f, hf, ?_⟩)
    obtain rfl | rfl | rfl := cr_mem_destinations hdest
    · obtain ⟨hbank, hcode⟩ := designateRomBank_cr (bank := 0) hexec
      exact .inl ⟨.inl ⟨rfl, hbank⟩, hcode.trans hcm⟩
    · obtain ⟨hbank, hcode⟩ := designateRomBank_cr (bank := 1) hexec
      exact .inl ⟨.inr ⟨rfl, hbank⟩, hcode.trans hcm⟩
    · cases hexec
      exact .inr ⟨rfl, (cr3_dcl f).trans hcr3⟩

/-- Settles O18, by `step_cr`. -/
theorem commandRegisterWriters : Obligations.CommandRegisterWriters := by
  intro s t h
  obtain hreset | hsame | ⟨hruns, i, f, hf, hi⟩ := step_cr h
  · exact ⟨fun _ => .inl hreset, fun _ => .inl hreset⟩
  · exact ⟨fun hne => absurd (congrArg (BitVec.extractLsb' 3 1) hsame) hne,
      fun hne => absurd (congrArg (BitVec.setWidth 3) hsame) hne⟩
  · obtain ⟨hbank, hcm⟩ | ⟨rfl, hcr3⟩ := hi
    · exact ⟨fun _ => .inr ⟨hruns, i, f, hf, hbank⟩, fun hne => absurd hcm hne⟩
    · exact ⟨fun hne => absurd hcr3 hne, fun _ => .inr ⟨hruns, f, hf⟩⟩

/-! ### Reset (70_reset_and_hazards.md R280, R281) -/

/-- Reset is asked first, so nothing else happens in its step (60_exceptions.md R254). -/
theorem step_of_reset {s : State} (h : s.pins.resetIn = true) : step s = .next s.resetEvent.advance := by
  simp [step, State.sampledStep, State.machineStep, h]

/-- Settles O9: power-on and the reset event both go through `resetWith`. -/
theorem resetFixesFourValues : Obligations.ResetFixesFourValues :=
  ⟨⟨rfl, rfl, rfl, rfl⟩, fun _ h => ⟨_, step_of_reset h, rfl, rfl, rfl, rfl⟩⟩

/-- Settles O10: the reset event takes every field but memory, the platform and the inputs from `resetWith`. -/
theorem resetEventKeepsMemory : Obligations.ResetEventKeepsMemory := by
  intro s h
  exact ⟨_, step_of_reset h, rfl, rfl, rfl, rfl, rfl, rfl, rfl, rfl, rfl, fun _ => rfl, rfl⟩

/-- Settles O11: memory is empty and all four flip-flop fields are 0 after power-on. -/
theorem resetIsConsistent : Obligations.ResetIsConsistent := ⟨Memory.wf_nil, rfl, fun _ => rfl⟩

end Sys2Proof.Invariants

namespace Sys2Proof.UnselectedBank

open Sys2Proof.Machine

/-! ### The registers of the bank that is not selected (10_state.md R23)

`State.withUnselectedBank` replaces them; each accessor and each update commutes with that. -/

theorem x_withUnselectedBank (s : State) (f : Vector Nibble 8) (r : Nibble) :
    (s.withUnselectedBank f).x r = s.x r := by
  cases hbank : s.rbs <;> simp [State.x, State.withUnselectedBank, hbank]

theorem setX_withUnselectedBank (s : State) (f : Vector Nibble 8) (r v : Nibble) :
    (s.withUnselectedBank f).setX r v = (s.setX r v).withUnselectedBank f := by
  cases hbank : s.rbs <;> simp [State.setX, State.withUnselectedBank, hbank]

theorem xp_withUnselectedBank (s : State) (f : Vector Nibble 8) (p : PairAddr) :
    (s.withUnselectedBank f).xp p = s.xp p := by
  rw [State.xp, x_withUnselectedBank, x_withUnselectedBank, ← State.xp]

theorem setXp_withUnselectedBank (s : State) (f : Vector Nibble 8) (p : PairAddr) (v : Byte) :
    (s.withUnselectedBank f).setXp p v = (s.setXp p v).withUnselectedBank f := by
  rw [State.setXp, setX_withUnselectedBank, setX_withUnselectedBank, ← State.setXp]

/-! ### Instructions that do not see it -/

/-- The meaning commutes with replacing the unselected bank: it neither reads nor writes those registers. -/
def Blind (i : Instr) : Prop :=
  ∀ s f, exec i (s.withUnselectedBank f) = mapNext (fun t => t.withUnselectedBank f) (exec i s)

theorem blind_of_total {i : Instr} {g : State → State} (hexec : ∀ s, exec i s = .next (g s))
    (hg : ∀ s f, g (s.withUnselectedBank f) = (g s).withUnselectedBank f) : Blind i := by
  intro s f
  rw [hexec, hexec, hg]
  rfl

theorem blind_of_onRam {i : Instr} {act : State → RamSel → State} (hexec : ∀ s, exec i s = s.onRam (act s))
    (hact : ∀ s f a, act (s.withUnselectedBank f) a = (act s a).withUnselectedBank f) : Blind i := by
  intro s f
  have hsel : (s.withUnselectedBank f).ramSel = s.ramSel := rfl
  rw [hexec, hexec, State.onRam, State.onRam, hsel]
  cases s.ramSel with
  | error e => rfl
  | ok a => exact congrArg Host.Outcome.next (hact s f a)

theorem blind_of_onRomPort {i : Instr} {act : State → BitVec 1 → Nibble → State}
    (hexec : ∀ s, exec i s = s.onRomPort (act s))
    (hact : ∀ s f b c, act (s.withUnselectedBank f) b c = (act s b c).withUnselectedBank f) : Blind i := by
  intro s f
  have hsel : (s.withUnselectedBank f).romAddr = s.romAddr := rfl
  rw [hexec, hexec, State.onRomPort, State.onRomPort, hsel]
  cases s.romAddr with
  | error e => rfl
  | ok addr => exact congrArg Host.Outcome.next (hact s f _ _)

theorem blind_of_designateRomBank {i : Instr} {bank : BitVec 1}
    (hexec : ∀ s : State, exec i s = s.designateRomBank bank) : Blind i := by
  intro s f
  have hdbcnt : (s.withUnselectedBank f).dbcnt = s.dbcnt := rfl
  rw [hexec, hexec, State.designateRomBank, State.designateRomBank, hdbcnt]
  split <;> rfl

theorem blind_wpm : Blind .wpm := by
  intro s f
  have hsel : (s.withUnselectedBank f).pramSel = s.pramSel := rfl
  change execWpm _ = mapNext _ (execWpm s)
  rw [execWpm, execWpm, hsel]
  cases s.pramSel <;> rfl

theorem blind_rpm : Blind .rpm := by
  intro s f
  have hsel : (s.withUnselectedBank f).pramSel = s.pramSel := rfl
  change execRpm _ = mapNext _ (execRpm s)
  rw [execRpm, execRpm, hsel]
  cases s.pramSel <;> rfl

/-- An instruction that only computes the accumulator and the carry from one register. -/
theorem blind_of_reads_register {i : Instr} {r : Nibble} {g : State → Nibble → State}
    (hexec : ∀ s, exec i s = .next (g s (s.x r)))
    (hg : ∀ s f v, g (s.withUnselectedBank f) v = (g s v).withUnselectedBank f) : Blind i :=
  blind_of_total hexec fun s f => by rw [x_withUnselectedBank, hg]

/-- Settles O15: every instruction but the three is made of updates that commute with `withUnselectedBank`, the
register ones by `x_withUnselectedBank` and `setX_withUnselectedBank`, the others by leaving the files alone. -/
theorem unselectedBankIsInvisible : Obligations.UnselectedBankIsInvisible := by
  intro i s f hsb0 hsb1 hbbs
  revert s f
  change Blind i
  cases i with
  | sb0 => exact absurd rfl hsb0
  | sb1 => exact absurd rfl hsb1
  | bbs => exact absurd rfl hbbs
  | or4 | or5 =>
    exact blind_of_reads_register (g := fun s v => { s with acc := s.acc ||| v }) (fun _ => rfl) fun _ _ _ => rfl
  | an6 | an7 =>
    exact blind_of_reads_register (g := fun s v => { s with acc := s.acc &&& v }) (fun _ => rfl) fun _ _ _ => rfl
  | ld r => exact blind_of_reads_register (g := fun s v => { s with acc := v }) (fun _ => rfl) fun _ _ _ => rfl
  | add r =>
    exact blind_of_reads_register (g := fun s v => s.setSum (add4 v s.acc s.cy)) (fun _ => rfl) fun _ _ _ => rfl
  | sub r =>
    exact blind_of_reads_register (g := fun s v => s.setSum (sub4 s.plat.subCarryInComplemented s.acc v s.cy))
      (fun _ => rfl) fun _ _ _ => rfl
  | inc r =>
    exact blind_of_total (fun _ => rfl) fun s f => by rw [x_withUnselectedBank, setX_withUnselectedBank]
  | xch r =>
    refine blind_of_total (g := fun s => { s.setX r s.acc with acc := s.x r }) (fun _ => rfl) fun s f => ?_
    have hacc : (s.withUnselectedBank f).acc = s.acc := rfl
    rw [x_withUnselectedBank, setX_withUnselectedBank, hacc]
    rfl
  | isz r a8 =>
    refine blind_of_total (fun _ => rfl) fun s f => ?_
    rw [x_withUnselectedBank, setX_withUnselectedBank]
    rfl
  | fim p d8 => exact blind_of_total (fun _ => rfl) fun s f => setXp_withUnselectedBank s f p d8
  | src p =>
    refine blind_of_total (fun _ => rfl) fun s f => ?_
    rw [xp_withUnselectedBank]
    rfl
  | jin p =>
    refine blind_of_total (fun _ => rfl) fun s f => ?_
    rw [xp_withUnselectedBank]
    rfl
  | fin p =>
    refine blind_of_total (fun _ => rfl) fun s f => ?_
    have htick : (s.withUnselectedBank f).tick = s.tick.withUnselectedBank f := rfl
    rw [xp_withUnselectedBank, htick, setXp_withUnselectedBank]
    rfl
  | db0 | db1 => exact blind_of_designateRomBank fun _ => rfl
  | wpm => exact blind_wpm
  | rpm => exact blind_rpm
  | wrm | wr0 | wr1 | wr2 | wr3 | wmp | adm | sbm | rdm | rd0 | rd1 | rd2 | rd3 =>
    exact blind_of_onRam (fun _ => rfl) fun _ _ _ => rfl
  | rdr =>
    exact blind_of_onRomPort (act := fun s bank chip => { s with acc := s.readRomPort bank chip }) (fun _ => rfl)
      fun _ _ _ _ => rfl
  | wrr =>
    exact blind_of_onRomPort (act := fun s bank chip => s.store (.romPort bank chip) s.acc) (fun _ => rfl)
      fun _ _ _ _ => rfl
  | _ => exact blind_of_total (fun _ => rfl) fun _ _ => rfl

end Sys2Proof.UnselectedBank

namespace Sys2Proof.Events

open Sys2Proof.Machine Sys2Proof.OneWordBasic Sys2Proof.RoundTrip Sys2Proof.Frames

/-! ### Fetching two words -/

/-- Two fetches pass two cycles and move the program counter by two. -/
theorem fetched_fetched (s : State) : s.fetched.fetched = s.tick.tick.setPc (s.pc + 2) := by
  have hpc : s.fetched.pc = s.pc + 1 := setPc_pc _ _
  have htwo : s.pc + 1 + 1 = s.pc + 2 := BitVec.add_assoc _ 1 1
  have htick : s.fetched.tick = s.tick.tick.setPc (s.pc + 1) := rfl
  rw [State.fetched, hpc, htwo, htick]
  simp [State.setPc]

/-- The second fetch reads the location that answers the next address one cycle later. -/
theorem programLoc_fetched (s : State) :
    s.fetched.tick.programLoc s.fetched.pc = s.tick.tick.programLoc (s.pc + 1) := by
  have hpc : s.fetched.pc = s.pc + 1 := setPc_pc _ _
  rw [hpc]
  rfl

/-- Both words of a two-word instruction are fetched, each in its own cycle. -/
theorem fetchWords_of_twoWord {s : State} (hp1 : isPopulated s.plat (s.tick.programLoc s.pc) = true)
    (htwo : isTwoWord (s.mem.read (s.tick.programLoc s.pc).key) = true)
    (hp2 : isPopulated s.plat (s.tick.tick.programLoc (s.pc + 1)) = true) :
    s.fetchWords = .next ([s.mem.read (s.tick.programLoc s.pc).key,
      s.mem.read (s.tick.tick.programLoc (s.pc + 1)).key], s.fetched.fetched) := by
  rw [← programLoc_fetched] at hp2 ⊢
  have hsecond : s.fetched.fetchWord = .next (s.mem.read (s.fetched.tick.programLoc s.fetched.pc).key,
      s.fetched.fetched) := fetchWord_of_populated (s := s.fetched) hp2
  rw [State.fetchWords, fetchWord_of_populated hp1, andThen_of_next, if_pos htwo, hsecond, andThen_of_next]

/-- Two words that decode with none left over begin with a first word of two. -/
theorem isTwoWord_of_decode_pair {w1 w2 : Byte} {i : Instr} (h : decode [w1, w2] = .ok i []) :
    isTwoWord w1 = true := by
  obtain ⟨w, hws, -⟩ | ⟨v1, v2, hws, hdec⟩ := decode_ok_cases h
  · simp at hws
  · obtain ⟨rfl, -⟩ := List.cons.inj hws
    exact TwoWord.isTwoWord_of_decodeTwoWord hdec

/-- The step at a two-word instruction is its meaning after both fetches. -/
theorem step_of_twoWord {s : State} {i : Instr} (hr : s.runs)
    (hp1 : isPopulated s.plat (s.tick.programLoc s.pc) = true)
    (hp2 : isPopulated s.plat (s.tick.tick.programLoc (s.pc + 1)) = true)
    (hd : decode [s.mem.read (s.tick.programLoc s.pc).key, s.mem.read (s.tick.tick.programLoc (s.pc + 1)).key] =
      .ok i []) :
    step s = andThen (exec i s.fetched.fetched) fun t => .next t.advance := by
  have hwords := fetchWords_of_twoWord hp1 (isTwoWord_of_decode_pair hd) hp2
  have hfetch : s.fetchInstr = .next (i, s.fetched.fetched) := by
    simp only [State.fetchInstr, hwords, andThen_of_next, hd]
  rw [step_of_runs hr, State.instructionStep, hfetch, andThen_of_next]

/-- Settles O7, by the steps at one-word and at two-word instructions. -/
theorem stepRunsDecodedInstruction : Obligations.StepRunsDecodedInstruction := by
  intro s i w1 w2 hr hp1 hw1
  subst hw1
  refine ⟨step_of_oneWord hr hp1, fun hp2 hw2 hd => ?_⟩
  subst hw2
  rw [step_of_twoWord hr hp1 hp2 hd, fetched_fetched]

/-! ### Steps that stop before an instruction runs -/

theorem fetchWord_of_unpopulated {s : State} (h : isPopulated s.plat (s.tick.programLoc s.pc) = false) :
    s.fetchWord = .fault (.fetchUnpopulated (s.tick.programLoc s.pc).key) := by
  simp [State.fetchWord, h]

theorem step_of_fetchWords_fault {s : State} {e : Fault} (hr : s.runs) (h : s.fetchWords = .fault e) :
    step s = .fault e := by
  rw [step_of_runs hr, State.instructionStep, State.fetchInstr, h]
  rfl

theorem step_of_unassigned {s : State} (hr : s.runs) (hp : isPopulated s.plat (s.tick.programLoc s.pc) = true)
    (hw : s.mem.read (s.tick.programLoc s.pc).key ∈ [0x0F#8, 0xFE#8, 0xFF#8]) :
    step s = .refused (.unassignedWord (s.mem.read (s.tick.programLoc s.pc).key)) := by
  simp only [List.mem_cons, List.not_mem_nil, or_false] at hw
  have hone := isTwoWord_of_unassigned hw
  have hdecode := decode_of_unassigned hw []
  simp [step_of_runs hr, State.instructionStep, State.fetchInstr, State.fetchWords, fetchWord_of_populated hp, hone,
    hdecode]

theorem step_of_unpopulated_first {s : State} (hr : s.runs)
    (hp : isPopulated s.plat (s.tick.programLoc s.pc) = false) :
    step s = .fault (.fetchUnpopulated (s.tick.programLoc s.pc).key) := by
  refine step_of_fetchWords_fault hr ?_
  rw [State.fetchWords, fetchWord_of_unpopulated hp, andThen_of_fault]

theorem step_of_unpopulated_second {s : State} (hr : s.runs)
    (hp1 : isPopulated s.plat (s.tick.programLoc s.pc) = true)
    (htwo : isTwoWord (s.mem.read (s.tick.programLoc s.pc).key) = true)
    (hp2 : isPopulated s.plat (s.tick.tick.programLoc (s.pc + 1)) = false) :
    step s = .fault (.fetchUnpopulated (s.tick.tick.programLoc (s.pc + 1)).key) := by
  rw [← programLoc_fetched] at hp2 ⊢
  have hsecond := fetchWord_of_unpopulated (s := s.fetched) hp2
  refine step_of_fetchWords_fault hr ?_
  rw [State.fetchWords, fetchWord_of_populated hp1, andThen_of_next, if_pos htwo, hsecond, andThen_of_fault]

/-- The STOP control on a running processor has no meaning (60_exceptions.md R262). -/
theorem step_of_stopControl {s : State} (hreset : s.pins.resetIn = false) (hhalt : s.halt = false)
    (hstop : s.pins.stopCtl = true) : step s = .refused .stopControlWhileRunning := by
  simp [step, State.sampledStep, State.machineStep, hreset, hhalt, hstop]

/-- Settles O8, cause by cause. -/
theorem stepsWithoutMeaningStop : Obligations.StepsWithoutMeaningStop := by
  refine ⟨fun s w hr hp hword hw => ?unassigned, fun s hr hp => step_of_unpopulated_first hr hp,
    fun s hr hp1 htwo hp2 => step_of_unpopulated_second hr hp1 htwo hp2,
    fun s hreset hhalt hstop => step_of_stopControl hreset hhalt hstop⟩
  case unassigned =>
    subst hword
    exact step_of_unassigned hr hp hw

/-! ### Interrupt entry (60_exceptions.md R253) -/

theorem step_of_interrupt_running {s : State} (hreset : s.pins.resetIn = false) (hhalt : s.halt = false)
    (hstop : s.pins.stopCtl = false) (hint : s.interruptRecognised = true) :
    step s = andThen s.interruptEntry fun t => .next t.advance := by
  simp [step, State.sampledStep, State.machineStep, hreset, hhalt, hstop, hint]

/-- A step of a halted processor is a halted step on the present sample (R254). -/
theorem step_of_halted {s : State} (hreset : s.pins.resetIn = false) (hhalt : s.halt = true) :
    step s = andThen s.haltedStep fun t => .next t.advance := by
  simp [step, State.sampledStep, State.machineStep, hreset, hhalt]

theorem step_of_interrupt_halted {s : State} (hreset : s.pins.resetIn = false) (hhalt : s.halt = true)
    (hint : s.interruptRecognised = true) :
    step s = andThen s.tick.interruptEntry fun t => .next t.advance := by
  rw [step_of_halted hreset hhalt, State.haltedStep, if_pos hint]

theorem interruptEntry_of_settled {s : State} (h : s.dbcnt = 0) : s.interruptEntry = .next s.forcedJms := if_pos h

theorem interruptEntry_of_pending {s : State} (h : s.dbcnt ≠ 0) :
    s.interruptEntry = .refused .interruptDuringBankChange := if_neg h

/-- A call leaves the return address in the register that was the program counter (10_state.md R32). -/
theorem stackReg_push_sp (s : State) (t : Addr) : (s.push t).stackReg s.sp = s.pc := by
  have hne : s.sp ≠ s.sp + 1 := fun h => bitVec3_succ_ne s.sp (congrArg BitVec.toNat h.symm)
  rw [stackReg_push, if_neg hne, pc_eq_stackReg]

theorem stackReg_push_other (s : State) (t : Addr) {j : BitVec 3} (hj : j ≠ s.sp + 1) :
    (s.push t).stackReg j = s.stackReg j := by
  rw [stackReg_push, if_neg hj]

theorem stackReg_forcedJms_sp (s : State) : s.forcedJms.stackReg s.sp = s.pc := stackReg_push_sp s _

theorem stackReg_forcedJms_other (s : State) {j : BitVec 3} (hj : j ≠ s.sp + 1) :
    s.forcedJms.stackReg j = s.stackReg j := stackReg_push_other s _ hj

/-- Settles O20: the step is the forced JMS, of the state itself if it runs and of the state a cycle later if it is
halted; with a bank change pending it has no meaning. -/
theorem interruptEntry : Obligations.InterruptEntry := by
  refine ⟨fun _ => rfl, fun s hreset hint hstop => ?_⟩
  by_cases hhalt : s.halt = true
  case neg =>
    have hstep := step_of_interrupt_running hreset (Bool.eq_false_iff.2 hhalt) (hstop.resolve_left hhalt) hint
    rw [if_neg hhalt]
    split
    case isTrue hsettled =>
      rw [interruptEntry_of_settled hsettled, andThen_of_next] at hstep
      refine ⟨_, hstep, forcedJms_pc s, rfl, stackReg_forcedJms_sp s, fun _ hj => stackReg_forcedJms_other s hj, rfl,
        rfl, rfl, rfl, fun _ => ⟨rfl, rfl⟩, fun h => absurd h hhalt, onlyChanges_of_keeps ?_⟩
      exact keeps_mono (keeps_append (keeps_forcedJms s) (keeps_advance _)) (by simp)
    case isFalse hpending =>
      rw [hstep, interruptEntry_of_pending hpending, andThen_of_refused]
  case pos =>
    have hstep := step_of_interrupt_halted hreset hhalt hint
    rw [if_pos hhalt]
    split
    case isTrue hsettled =>
      rw [interruptEntry_of_settled hsettled, andThen_of_next] at hstep
      refine ⟨_, hstep, forcedJms_pc s.tick, rfl, stackReg_forcedJms_sp s.tick,
        fun _ hj => stackReg_forcedJms_other s.tick hj, rfl, rfl, rfl, rfl,
        fun h => absurd hhalt (Bool.eq_false_iff.1 h), fun _ => ⟨hsettled, rfl⟩, onlyChanges_of_keeps ?_⟩
      have hentry := keeps_append (keeps_tick s) (keeps_forcedJms s.tick)
      exact keeps_mono (keeps_append hentry (keeps_advance _)) (by simp)
    case isFalse hpending =>
      rw [hstep, interruptEntry_of_pending hpending, andThen_of_refused]

/-! ### Halted steps without an interrupt (60_exceptions.md R263) -/

/-- Whether a halted processor goes on without an interrupt: by the STOP control, or by a masked request where the
platform lets that wake it. -/
abbrev wakes (s : State) : Prop :=
  s.pins.stopCtl = true ∨ s.pins.intReq = true ∧ s.plat.haltWakeWhenMasked = .resume

theorem haltedStep_of_wakes {s : State} (hint : s.interruptRecognised = false) (h : wakes s) :
    s.haltedStep = .next s.tick.wake := by
  obtain hstop | ⟨hreq, hwake⟩ := h
  · simp [State.haltedStep, hint, hstop]
  · simp [State.haltedStep, hint, hreq, hwake]

theorem haltedStep_of_not_wakes {s : State} (hint : s.interruptRecognised = false) (h : ¬wakes s) :
    s.haltedStep = .next s.tick := by
  obtain ⟨hstop, hmasked⟩ := not_or.1 h
  cases hwake : s.plat.haltWakeWhenMasked with
  | stay => simp [State.haltedStep, hint, hstop, hwake]
  | resume =>
    have hreq : s.pins.intReq = false := by simpa [hwake] using hmasked
    simp [State.haltedStep, hint, hstop, hreq]

/-- A cycle counts the ROM bank delay down to 0 (70_reset_and_hazards.md R287). -/
theorem tick_dbcnt_toNat (s : State) : s.tick.dbcnt.toNat = s.dbcnt.toNat - 1 := by
  have hcount : ∀ n : BitVec 2, (if n = 0 then 0 else n - 1).toNat = n.toNat - 1 := by decide
  exact hcount s.dbcnt

/-- Settles O21: the processor wakes or only passes a cycle. -/
theorem haltedStep : Obligations.HaltedStep := by
  intro s hreset hhalt hint
  have hstep := step_of_halted hreset hhalt
  by_cases hwakes : wakes s
  case pos =>
    rw [haltedStep_of_wakes hint hwakes, andThen_of_next] at hstep
    refine ⟨_, hstep, tick_dbcnt_toNat s, rfl, onlyChanges_of_keeps ?_, ?_⟩
    · have hwake := keeps_append (keeps_tick s) (keeps_halt_stop s.tick false false)
      exact keeps_mono (keeps_append hwake (keeps_advance _)) (by simp)
    · rw [if_pos hwakes]
      exact ⟨rfl, rfl⟩
  case neg =>
    rw [haltedStep_of_not_wakes hint hwakes, andThen_of_next] at hstep
    refine ⟨_, hstep, tick_dbcnt_toNat s, rfl, onlyChanges_of_keeps ?_, ?_⟩
    · exact keeps_mono (keeps_append (keeps_tick s) (keeps_advance _)) (by simp)
    · rw [if_neg hwakes]
      exact ⟨hhalt, rfl⟩

/-! ### Return from interrupt (R257), the address stack (10_state.md R32) -/

theorem returnFromInterrupt_pc (s : State) : s.returnFromInterrupt.pc = s.stackReg (s.sp - 1) := rfl

/-- Settles O22: the pop undoes the push on the selector, and the register under it still holds the return
address. -/
theorem bbsReturnsFromInterrupt : Obligations.BbsReturnsFromInterrupt := by
  intro s e h hentry hsp hrbs hstack
  obtain ⟨-, rfl⟩ := interruptEntry_next s e hentry
  have hback : h.sp - 1 = s.sp := by rw [hsp, forcedJms_sp, BitVec.add_sub_cancel]
  have hexec : exec .bbs h = .next h.returnFromInterrupt := rfl
  refine ⟨_, hexec, ?pc, hback, hrbs, rfl⟩
  case pc => rw [returnFromInterrupt_pc, hback, hstack, stackReg_forcedJms_sp]

theorem pops_sp (n : Nat) (s : State) : (State.pops n s).sp = s.sp - BitVec.ofNat 3 n := by
  induction n generalizing s with
  | zero => exact (BitVec.sub_zero s.sp).symm
  | succ n ih =>
    rw [State.pops, ih, pop_sp]
    bv_omega

theorem stackReg_pops (n : Nat) (s : State) (j : BitVec 3) : (State.pops n s).stackReg j = s.stackReg j := by
  induction n generalizing s with
  | zero => rfl
  | succ n ih => rw [State.pops, ih, stackReg_pop]

theorem pops_pc (n : Nat) (s : State) : (State.pops n s).pc = s.stackReg (s.sp - BitVec.ofNat 3 n) := by
  rw [pc_eq_stackReg, stackReg_pops, pops_sp]

theorem foldl_push_sp (targets : List Addr) (s : State) :
    (targets.foldl State.push s).sp = s.sp + BitVec.ofNat 3 targets.length := by
  induction targets generalizing s with
  | nil => exact (BitVec.add_zero s.sp).symm
  | cons t ts ih =>
    rw [List.foldl_cons, ih, push_sp, List.length_cons]
    bv_omega

/-- Calls write the registers after the selected one, as many as there are calls. -/
theorem stackReg_foldl_push (targets : List Addr) (s : State) (j : BitVec 3)
    (hj : ∀ k, k < targets.length → j ≠ s.sp + BitVec.ofNat 3 (k + 1)) :
    (targets.foldl State.push s).stackReg j = s.stackReg j := by
  induction targets generalizing s with
  | nil => rfl
  | cons t ts ih =>
    have hfirst : j ≠ s.sp + 1 := hj 0 (Nat.zero_lt_succ _)
    rw [List.foldl_cons, ih, stackReg_push, if_neg hfirst]
    intro k hk hjk
    refine hj (k + 1) (Nat.succ_lt_succ hk) (hjk.trans ?_)
    rw [push_sp]
    bv_omega

/-- Up to seven steps on the ring of eight do not come back to the start. -/
theorem ring_ne (n : BitVec 3) {k : Nat} (hk : k < 7) : n ≠ n + BitVec.ofNat 3 (k + 1) := by
  bv_omega

/-- Settles O23: `n` pops undo the selector's `n` pushes, and fewer than eight calls spare the register of the
caller; the eighth call comes back to it, and eight pops close the ring. -/
theorem addressStackHoldsSeven : Obligations.AddressStackHoldsSeven := by
  intro s targets
  refine ⟨fun hlen => ?upToSeven, fun newest hlen => ?eighth⟩
  case upToSeven =>
    have hback : (targets.foldl State.push s).sp - BitVec.ofNat 3 targets.length = s.sp := by
      rw [foldl_push_sp, BitVec.add_sub_cancel]
    rw [pops_pc, pops_sp, hback]
    refine ⟨?_, rfl⟩
    exact stackReg_foldl_push targets s s.sp fun k hk => ring_ne s.sp (Nat.lt_of_lt_of_le hk hlen)
  case eighth =>
    have hclosed : ∀ n : BitVec 3, n - BitVec.ofNat 3 8 = n := BitVec.sub_zero
    rw [List.foldl_append, List.foldl_cons, List.foldl_nil, pops_pc, hclosed, ← pc_eq_stackReg, push_pc]

end Sys2Proof.Events

namespace Sys2Proof.Jumps

open Sys2Proof.Machine Sys2Proof.OneWordBasic Sys2Proof.TwoWord Sys2Proof.RoundTrip Sys2Proof.Frames Sys2Proof.Events

/-! ### Subtraction (40_one_word_basic.md R125) -/

theorem not_toNat (b : Nibble) : (~~~b).toNat = 15 - b.toNat := BitVec.toNat_not

/-- With the carry complemented on its way in, the exact sum is 16 more than the difference. -/
theorem sub4_complemented (a b : Nibble) (c : Bool) :
    16 * ((sub4 true a b c).carry.toNat : Int) + (sub4 true a b c).value.toNat =
      16 + a.toNat - b.toNat - c.toNat := by
  have hsum : _ = a.toNat + (~~~b).toNat + (!c).toNat := add4_exact a (~~~b) (!c)
  have hcarry : sub4 true a b c = add4 a (~~~b) (!c) := rfl
  have hb := b.isLt
  rw [not_toNat, ← hcarry] at hsum
  have hc : (!c).toNat = 1 - c.toNat := by cases c <;> rfl
  have hcle := c.toNat_le
  omega

theorem sub4_complemented_value (a b : Nibble) (c : Bool) :
    ((sub4 true a b c).value.toNat : Int) = ((a.toNat : Int) - b.toNat - c.toNat) % 16 := by
  have hdiff := sub4_complemented a b c
  have hlt := (sub4 true a b c).value.isLt
  omega

/-- The carry out is 1 exactly if there is no borrow. -/
theorem sub4_complemented_carry (a b : Nibble) (c : Bool) :
    (sub4 true a b c).carry = true ↔ b.toNat + c.toNat ≤ a.toNat := by
  have hdiff := sub4_complemented a b c
  have hlt := (sub4 true a b c).value.isLt
  have hbit := (sub4 true a b c).carry.toNat_le
  rw [← Bool.toNat_eq_one]
  omega

theorem sub4_direct_value (a b : Nibble) (c : Bool) :
    (sub4 false a b c).value.toNat = (a.toNat + (15 - b.toNat) + c.toNat) % 16 := by
  rw [← not_toNat]
  exact add4_value_toNat a (~~~b) c

theorem sub4_direct_carry (a b : Nibble) (c : Bool) :
    (sub4 false a b c).carry = true ↔ 15 < a.toNat + (15 - b.toNat) + c.toNat := by
  rw [← not_toNat]
  exact add4_carry_iff a (~~~b) c

/-- Settles O27: SUB is `sub4` with the platform's parameter. -/
theorem subSubtractsWithBorrow : Obligations.SubSubtractsWithBorrow := by
  intro r
  refine ⟨encodedAs_of_opr_opa (opr := 0x9) (by simp [decodeOneWord]), fun s => ?_⟩
  have hexec : exec (.sub r) s = .next (s.setSum (sub4 s.plat.subCarryInComplemented s.acc (s.x r) s.cy)) := rfl
  rw [← x_eq_reg]
  refine ⟨_, hexec, fun hparam => ?complemented, fun hparam => ?direct, ?register⟩
  case complemented =>
    rw [hparam]
    exact ⟨sub4_complemented_value _ _ _, sub4_complemented_carry _ _ _⟩
  case direct =>
    rw [hparam]
    exact ⟨sub4_direct_value _ _ _, sub4_direct_carry _ _ _⟩
  case register => exact (reg_congr rfl rfl rfl _).trans (x_eq_reg s r).symm

/-! ### The page of a jump (70_reset_and_hazards.md R289) -/

/-- The page of the address after an instruction's last word, by the source's rule. -/
theorem page_succ (last : Addr) : (last + 1).extractLsb' 8 4 = nextPage last := by
  apply BitVec.eq_of_toNat_eq
  have hlt := last.isLt
  have hone : (1 : Addr).toNat = 1 := rfl
  rw [BitVec.extractLsb'_toNat, Nat.shiftRight_eq_div_pow, BitVec.toNat_add, hone, nextPage]
  split
  all_goals
    rw [BitVec.toNat_ofNat]
    omega

theorem samePage_of_last {s : State} {last : Addr} (h : s.pc = last + 1) (a8 : Byte) :
    s.samePage a8 = nextPage last ++ a8 := by
  rw [State.samePage, h, page_succ]

/-- A page and a pair's two digits make the same address in either grouping. -/
theorem page_append_pair (page even odd : Nibble) : (page ++ (even ++ odd) : Addr) = page ++ even ++ odd := by
  rw [BitVec.append_assoc, BitVec.cast_eq]

/-- Settles O29: both write the program counter only. -/
theorem junAndJin : Obligations.JunAndJin := by
  refine ⟨fun a12 => ⟨encodedAs_jun a12, fun s => ?jun⟩, fun p => ⟨encodedAs_jin p, fun s last hlast => ?jin⟩⟩
  case jun =>
    have hexec : exec (.jun a12) s = .next (s.setPc a12) := rfl
    exact ⟨_, hexec, setPc_pc s a12, onlyChanges_of_exec hexec .stack (by simp [destinations]), rfl, rfl⟩
  case jin =>
    have hexec : exec (.jin p) s = .next (s.setPc (s.samePage (s.xp p))) := rfl
    refine ⟨_, hexec, ?pc, rfl, rfl, reg_congr rfl rfl rfl⟩
    case pc => rw [setPc_pc, samePage_of_last hlast, xp_eq_pairValue, State.pairValue, page_append_pair]

/-- Settles O30, by the rules of push and pop. -/
theorem jmsAndBbl : Obligations.JmsAndBbl := by
  refine ⟨fun a12 => ⟨encodedAs_jms a12, fun s => ?jms⟩,
    fun d => ⟨encodedAs_of_opr_opa (opr := 0xC) (by simp [decodeOneWord]), fun s => ?bbl⟩⟩
  case jms =>
    have hexec : exec (.jms a12) s = .next (s.push a12) := rfl
    have hsp : (s.sp + 1).toNat = (s.sp.toNat + 1) % 8 := BitVec.toNat_add s.sp 1
    exact ⟨_, hexec, push_pc s a12, hsp, stackReg_push_sp s a12, fun _ hj => stackReg_push_other s a12 hj⟩
  case bbl =>
    have hexec : exec (.bbl d) s = .next { s.pop with acc := d } := rfl
    have hsp : (s.sp - 1).toNat = (s.sp.toNat + 7) % 8 := by bv_omega
    exact ⟨_, hexec, rfl, hsp, rfl, fun j => stackReg_pop s j⟩

/-! ### The condition and the loop (42_two_word.md R172, R174) -/

/-- Settles O35: JCN writes the program counter only, with the address in its page or the next address. -/
theorem jcnJumpsInPage : Obligations.JcnJumpsInPage := by
  intro c a8
  refine ⟨encodedAs_jcn c a8, fun s last hlast => ?_⟩
  have hexec : exec (.jcn c a8) s =
      .next (s.setPc (if jumps c s.acc s.cy s.pins.test then s.samePage a8 else s.pc)) := rfl
  refine ⟨_, hexec, ?pc, onlyChanges_of_exec hexec .stack (by simp [destinations]), rfl, rfl⟩
  case pc => rw [setPc_pc, samePage_of_last hlast, hlast]

/-- A jump leaves the index registers alone. -/
theorem reg_setPc (s : State) (t : Addr) (q : RegName) : (s.setPc t).reg q = s.reg q := reg_congr rfl rfl rfl q

/-- The incremented register is 0 exactly when it was 15. -/
theorem succ_eq_zero_iff (v : Nibble) : v + 1 = 0 ↔ v.toNat = 15 := by
  revert v
  decide

/-- Settles O36: ISZ is the register write of INC and a jump of JCN's kind. -/
theorem iszLoops : Obligations.IszLoops := by
  intro r a8
  refine ⟨encodedAs_isz r a8, fun s last hlast => ?_⟩
  have hexec : exec (.isz r a8) s =
      .next ((s.setX r (s.x r + 1)).setPc (if s.x r + 1 = 0 then s.pc else s.samePage a8)) := rfl
  refine ⟨_, hexec, ?register, ?pc, onlyChanges_of_exec hexec .stack (by simp [destinations]), rfl, rfl⟩
  case register =>
    rw [reg_setPc, reg_setX_same, x_eq_reg]
    exact BitVec.toNat_add _ 1
  case pc =>
    rw [setPc_pc, samePage_of_last hlast, hlast, ← x_eq_reg]
    exact if_congr (succ_eq_zero_iff _) rfl rfl

/-! ### SRC and FIN -/

/-- Settles O31, by what `State.sendSrc` writes. -/
theorem srcLatchesPair : Obligations.SrcLatchesPair := by
  intro p
  refine ⟨encodedAs_src p, fun s => ?_⟩
  have hexec : exec (.src p) s = .next (s.sendSrc (s.xp p)) := rfl
  rw [← xp_eq_pairValue]
  refine ⟨_, hexec, rfl, ?srcr, reg_congr rfl rfl rfl⟩
  case srcr =>
    split
    case isTrue hloads =>
      have hloads : (!s.inta || s.plat.srcrLoadsDuringInta) = true := by simpa using hloads
      rw [sendSrc_srcr, sendSrc_srcrLoaded, hloads]
      exact ⟨rfl, rfl⟩
    case isFalse hkeeps =>
      have hkeeps : (!s.inta || s.plat.srcrLoadsDuringInta) = false := by simpa using hkeeps
      exact ⟨by simp [hkeeps], by simp [hkeeps]⟩

theorem readProgram_of_populated {s : State} {a : Addr} (h : isPopulated s.plat (s.programLoc a) = true) :
    s.readProgram a = s.mem.read (s.programLoc a).key := if_pos h

/-- Settles O32: after the second cycle FIN writes the pair with the word read, whose address comes from pair 0 of the
state before. -/
theorem finFetchesIndirect : Obligations.FinFetchesIndirect := by
  intro p
  refine ⟨encodedAs_fin p, fun s last hlast => ?_⟩
  have hexec : exec (.fin p) s = .next (s.tick.setXp p (s.tick.readProgram (s.samePage (s.xp 0)))) := rfl
  rw [samePage_of_last hlast, xp_eq_pairValue] at hexec
  refine ⟨_, hexec, fun hp => ?loaded, regsUnchangedBut_setXp s.tick p _, rfl, tick_dbcnt_toNat s, rfl⟩
  case loaded => rw [← xp_eq_pairValue, xp_setXp, readProgram_of_populated hp, tick_mem]

end Sys2Proof.Jumps

namespace Sys2Proof.Extended4040

open Sys2Proof.Machine Sys2Proof.OneWordBasic Sys2Proof.TwoWord Sys2Proof.Frames Sys2Proof.Invariants

/-- Settles O37: each writes the field that its entry names. -/
theorem hltEinDinLcr : Obligations.HltEinDinLcr := by
  refine ⟨⟨encodedAs_of_decodeOneWord rfl, fun s => ?hlt⟩, ⟨encodedAs_of_decodeOneWord rfl, fun s => ?ein⟩,
    ⟨encodedAs_of_decodeOneWord rfl, fun s => ?din⟩, encodedAs_of_decodeOneWord rfl, fun s => ?lcr⟩
  case hlt =>
    have hexec : exec .hlt s = .next { s with halt := true, stop := true } := rfl
    exact ⟨_, hexec, rfl, rfl, onlyChanges_of_exec hexec⟩
  case ein =>
    have hexec : exec .ein s = .next { s with ie := true } := rfl
    exact ⟨_, hexec, rfl, onlyChanges_of_exec hexec⟩
  case din =>
    have hexec : exec .din s = .next { s with ie := false } := rfl
    exact ⟨_, hexec, rfl, onlyChanges_of_exec hexec⟩
  case lcr =>
    have hexec : exec .lcr s = .next { s with acc := s.cr } := rfl
    exact ⟨_, hexec, rfl, onlyChanges_of_exec hexec⟩

/-- Settles O38, by what `State.returnFromInterrupt` writes. -/
theorem bbsEffects : Obligations.BbsEffects := by
  refine ⟨encodedAs_of_decodeOneWord rfl, fun s => ?_⟩
  have hexec : exec .bbs s = .next s.returnFromInterrupt := rfl
  have hsp : (s.sp - 1).toNat = (s.sp.toNat + 7) % 8 := by bv_omega
  exact ⟨_, hexec, Events.returnFromInterrupt_pc s, hsp, fun j => stackReg_pop s j, rfl, rfl,
    returnFromInterrupt_sel s, rfl, rfl, rfl, rfl⟩

/-! ### OR and AND with the register of an implied address (41_one_word_4040.md R143 to R146) -/

theorem completes_of_exec_or {i : Instr} {s : State} {r : Nibble}
    (hexec : exec i s = .next { s with acc := s.acc ||| s.x r }) :
    Completes i s fun t => (∀ k, t.acc.getLsbD k = (s.acc.getLsbD k || (s.reg (s.regName r)).getLsbD k)) ∧
      t.cy = s.cy ∧ t.reg (s.regName r) = s.reg (s.regName r) := by
  rw [x_eq_reg] at hexec
  exact ⟨_, hexec, fun _ => BitVec.getLsbD_or, rfl, reg_congr rfl rfl rfl _⟩

theorem completes_of_exec_and {i : Instr} {s : State} {r : Nibble}
    (hexec : exec i s = .next { s with acc := s.acc &&& s.x r }) :
    Completes i s fun t => (∀ k, t.acc.getLsbD k = (s.acc.getLsbD k && (s.reg (s.regName r)).getLsbD k)) ∧
      t.cy = s.cy ∧ t.reg (s.regName r) = s.reg (s.regName r) := by
  rw [x_eq_reg] at hexec
  exact ⟨_, hexec, fun _ => BitVec.getLsbD_and, rfl, reg_congr rfl rfl rfl _⟩

/-- Settles O39: two instructions of each of the two shapes. -/
theorem logicWithImpliedRegister : Obligations.LogicWithImpliedRegister := by
  refine ⟨⟨encodedAs_of_decodeOneWord rfl, encodedAs_of_decodeOneWord rfl, encodedAs_of_decodeOneWord rfl,
    encodedAs_of_decodeOneWord rfl⟩, fun s => ⟨?or4, ?or5, ?an6, ?an7⟩⟩
  case or4 => exact completes_of_exec_or rfl
  case or5 => exact completes_of_exec_or rfl
  case an6 => exact completes_of_exec_and rfl
  case an7 => exact completes_of_exec_and rfl

/-! ### The ROM bank (R147, R148) -/

theorem designateRomBank_of_settled {s : State} (h : s.dbcnt = 0) (bank : BitVec 1) :
    s.designateRomBank bank = .next { s with cr := bank ++ s.cm, dbcnt := 3 } := if_pos h

theorem designateRomBank_of_pending {s : State} (h : s.dbcnt ≠ 0) (bank : BitVec 1) :
    s.designateRomBank bank = .refused .bankChangePending := if_neg h

/-- An instruction that designates a bank, with no change pending. -/
theorem completes_of_designateRomBank {i : Instr} {s : State} {bank : BitVec 1} (h : s.dbcnt = 0)
    (hexec : exec i s = s.designateRomBank bank) :
    Completes i s fun t => t.cr3 = bank ∧ t.cm = s.cm ∧ t.dbcnt = 3 ∧ OnlyChanges [.cr, .dbcnt] s t := by
  rw [designateRomBank_of_settled h] at hexec
  exact ⟨_, hexec, cr3_append _ _, cm_append _ _, rfl, onlyChanges_of_keeps (keeps_cr_dbcnt s _ _)⟩

/-- Settles O40, by whether a change is pending. -/
theorem db0AndDb1DesignateBank : Obligations.Db0AndDb1DesignateBank := by
  refine ⟨⟨encodedAs_of_decodeOneWord rfl, encodedAs_of_decodeOneWord rfl⟩, fun s => ?_⟩
  split
  case isTrue hsettled =>
    exact ⟨completes_of_designateRomBank hsettled rfl, completes_of_designateRomBank hsettled rfl⟩
  case isFalse hpending =>
    exact ⟨designateRomBank_of_pending hpending 0, designateRomBank_of_pending hpending 1⟩

/-- A delay of three cycles keeps the activated bank for two and ends in the third (70_reset_and_hazards.md R287). -/
theorem romb_tick_of_delay {t : State} (h : t.dbcnt = 3) :
    t.tick.romb = t.romb ∧ t.tick.tick.romb = t.romb ∧ t.tick.tick.tick.romb = t.cr3 ∧
      t.tick.tick.tick.dbcnt = 0 := by
  simp [h]

/-- Settles O41: both instructions start the delay of three cycles and leave the activated bank. -/
theorem bankChangeInThirdCycle : Obligations.BankChangeInThirdCycle := by
  intro s t h
  have hexec : ∃ bank, s.designateRomBank bank = .next t := h.elim (fun h => ⟨0, h⟩) (fun h => ⟨1, h⟩)
  obtain ⟨bank, hbank⟩ := hexec
  obtain ⟨-, rfl⟩ := designateRomBank_next s t bank hbank
  exact romb_tick_of_delay rfl

/-! ### Program RAM (R151, R152, 20_memory.md R71) -/

theorem exec_wpm_of_selected {s : State} {addr : Byte} (h : PramSelected s addr) :
    exec .wpm s = .next (wpmResult s (.pram s.extraLines addr)) := by
  change execWpm s = _
  rw [execWpm, pramSel_of_selected h]
  rfl

theorem exec_rpm_of_selected {s : State} {addr : Byte} (h : PramSelected s addr) :
    exec .rpm s = .next { s with
      acc := halfOf s.movesHigh (s.mem.read (Loc.pram s.extraLines addr).key)
      fl := s.fl.toggle } := by
  change execRpm s = _
  rw [execRpm, pramSel_of_selected h]

theorem toggle_ne (f : Half) : f.toggle ≠ f := by
  cases f <;> decide

/-- The half that the next WPM or RPM moves, by F/L and the platform's half order (R71). -/
theorem movesHigh_iff (s : State) :
    s.movesHigh = true ↔ if s.plat.pramFirstIsHigh then s.fl = .first else s.fl = .last := by
  unfold State.movesHigh
  cases s.fl <;> cases s.plat.pramFirstIsHigh <;> decide

theorem halfOf_toNat (high : Bool) (w : Byte) :
    (halfOf high w).toNat = if high then w.toNat / 16 else w.toNat % 16 := by
  cases high with
  | false => exact low_toNat w
  | true => exact high_toNat w

theorem append_toNat (a b : Nibble) : (a ++ b : Byte).toNat = 16 * a.toNat + b.toNat := by
  revert a b
  decide

theorem withHalf_toNat (high : Bool) (w : Byte) (v : Nibble) :
    (withHalf high w v).toNat =
      if high then 16 * v.toNat + w.toNat % 16 else 16 * (w.toNat / 16) + v.toNat := by
  cases high with
  | false => exact (append_toNat w.high v).trans (by rw [high_toNat]; rfl)
  | true => exact (append_toNat v w.low).trans (by rw [low_toNat]; rfl)

/-- Writing both halves leaves nothing of the word before. -/
theorem withHalf_withHalf (high : Bool) (w : Byte) (a v : Nibble) :
    withHalf (!high) (withHalf high w a) v = if high then a ++ v else v ++ a := by
  cases high <;> simp [withHalf]

theorem movesHigh_toggle {s t : State} (hfl : t.fl = s.fl.toggle) (hplat : t.plat = s.plat) :
    t.movesHigh = !s.movesHigh := by
  unfold State.movesHigh
  rw [hfl, hplat]
  cases s.fl <;> cases s.plat.pramFirstIsHigh <;> rfl

/-- A WPM leaves the selected word where it was, whatever the accumulator is loaded with after it. -/
theorem extraLines_wpmResult {s : State} (hm : s.mem.wf) (addr : Byte) (v : Nibble) :
    { wpmResult s (.pram s.extraLines addr) with acc := v }.extraLines = s.extraLines :=
  extraLines_write_word hm (l := .pram s.extraLines addr) rfl _ rfl rfl

theorem pramSelected_wpmResult {s : State} {addr : Byte} (hm : s.mem.wf) (h : PramSelected s addr) (v : Nibble) :
    PramSelected { wpmResult s (.pram s.extraLines addr) with acc := v } addr := by
  obtain ⟨hrom, h4289, hpop⟩ := h
  refine ⟨hrom, h4289, ?_⟩
  rw [extraLines_wpmResult hm]
  exact hpop

/-- The second of two WPM with the same selection finds the first one's word. -/
theorem exec_wpm_after_wpm {s : State} {addr : Byte} (hm : s.mem.wf) (h : PramSelected s addr) (v : Nibble) :
    exec .wpm { wpmResult s (.pram s.extraLines addr) with acc := v } =
      .next (wpmResult { wpmResult s (.pram s.extraLines addr) with acc := v } (.pram s.extraLines addr)) := by
  have hexec := exec_wpm_of_selected (pramSelected_wpmResult hm h v)
  rwa [extraLines_wpmResult hm] at hexec

/-- Two WPM with the same selection write the whole word, the half that `movesHigh` names first. -/
theorem read_wpmResult_twice {s : State} (hm : s.mem.wf) (l : Loc) (v : Nibble) :
    (wpmResult { wpmResult s l with acc := v } l).mem.read l.key =
      if s.movesHigh then s.acc ++ v else v ++ s.acc := by
  have hsorted := Memory.wf_sorted hm
  have hsecond : { wpmResult s l with acc := v }.movesHigh = !s.movesHigh := movesHigh_toggle rfl rfl
  have hsorted' : Memory.sorted { wpmResult s l with acc := v }.mem := Memory.sorted_write hsorted _ _
  rw [read_wpmResult hsorted', hsecond, ← withHalf_withHalf s.movesHigh (s.mem.read l.key), ← read_wpmResult hsorted]

/-- Settles O43: each moves the half that `movesHigh` names, and two in a row name one half each. -/
theorem wpmAndRpmMoveHalves : Obligations.WpmAndRpmMoveHalves := by
  refine ⟨⟨encodedAs_of_decodeOneWord rfl, encodedAs_of_decodeOneWord rfl⟩, fun s addr hsel => ?_⟩
  intro word high
  have hhigh : s.movesHigh = true ↔ high := movesHigh_iff s
  refine ⟨?rpm, fun hm => ?wpm, fun hm t u v ht hu => ?twice⟩
  case rpm =>
    refine ⟨_, exec_rpm_of_selected hsel, ?_, toggle_ne s.fl, rfl⟩
    exact (halfOf_toNat _ _).trans (if_congr hhigh rfl rfl)
  case wpm =>
    refine ⟨_, exec_wpm_of_selected hsel, ?_, toggle_ne s.fl, rfl⟩
    have hword := read_wpmResult (Memory.wf_sorted hm) (.pram s.extraLines addr)
    exact (congrArg BitVec.toNat hword).trans ((withHalf_toNat _ _ _).trans (if_congr hhigh rfl rfl))
  case twice =>
    rw [exec_wpm_of_selected hsel, Host.Outcome.next.injEq] at ht
    subst ht
    rw [exec_wpm_after_wpm hm hsel, Host.Outcome.next.injEq] at hu
    subst hu
    exact ⟨(read_wpmResult_twice hm _ v).trans (if_congr hhigh rfl rfl), toggle_toggle s.fl⟩

end Sys2Proof.Extended4040

namespace Sys2Proof.Ports

open Sys2Proof.Machine Sys2Proof.OneWordBasic Sys2Proof.TwoWord Sys2Proof.IoRam Sys2Proof.Frames Sys2Proof.Invariants
  Sys2Proof.Jumps Sys2Proof.Extended4040

/-! ### ROM ports (20_memory.md R70) -/

/-- The index of a ROM port among the 32. -/
theorem portIndex_toNat (bank : BitVec 1) (chip : Nibble) : (bank ++ chip).toNat = 16 * bank.toNat + chip.toNat := by
  revert bank chip
  decide

theorem port_eq {port : Fin 32} {bank : BitVec 1} {chip : Nibble} (h : port.val = 16 * bank.toNat + chip.toNat) :
    port = ⟨(bank ++ chip).toNat, (bank ++ chip).isLt⟩ :=
  Fin.ext (h.trans (portIndex_toNat bank chip).symm)

/-- A mask takes each of the four lines from one of two sources. -/
theorem masked_getLsbD (mask a b : Nibble) {k : Nat} (hk : k < 4) :
    (a &&& mask ||| b &&& ~~~mask).getLsbD k = if mask.getLsbD k then a.getLsbD k else b.getLsbD k := by
  rw [BitVec.getLsbD_or, BitVec.getLsbD_and, BitVec.getLsbD_and, BitVec.getLsbD_not]
  cases mask.getLsbD k <;> simp [hk]

/-- A populated port reads, line by line, the user's constant or the level. -/
theorem readRomPort_getLsbD {s : State} {bank : BitVec 1} {chip : Nibble}
    (hp : isPopulated s.plat (.romPort bank chip) = true) {k : Nat} (hk : k < 4) {port : Fin 32}
    (hport : port.val = 16 * bank.toNat + chip.toNat) :
    (s.readRomPort bank chip).getLsbD k =
      if s.plat.romPortOutputMask[port].getLsbD k then s.plat.romPortOutputReadback[port].getLsbD k
      else s.pins.lines[port].getLsbD k := by
  obtain rfl := port_eq hport
  rw [State.readRomPort, if_pos hp]
  exact masked_getLsbD _ _ _ hk

theorem exec_rdr (s : State) :
    exec .rdr s = s.onRomPort fun bank chip => { s with acc := s.readRomPort bank chip } := rfl

theorem exec_rdr_of_selected {s : State} {chip low : Nibble} (h : RomSelected s (chip ++ low)) :
    exec .rdr s = .next { s with acc := s.readRomPort s.romb chip } := by
  rw [exec_rdr, onRomPort_of_selected h, high_append]

theorem exec_wrr_of_selected {s : State} {chip low : Nibble} (h : RomSelected s (chip ++ low)) :
    exec .wrr s = .next (s.store (.romPort s.romb chip) s.acc) := by
  rw [exec_wrr, onRomPort_of_selected h, high_append]

/-- Settles O46, line by line. -/
theorem rdrReadsPort : Obligations.RdrReadsPort := by
  refine ⟨encodedAs_of_decodeOneWord rfl, fun s chip low hsel hp => ?_⟩
  exact ⟨_, exec_rdr_of_selected hsel, rfl, fun _ hk _ hport => readRomPort_getLsbD hp hk hport⟩

/-! ### Port latches -/

/-- A populated place holds the character stored there. -/
theorem low_read_store {s : State} (hm : s.mem.wf) {l : Loc} (hp : isPopulated s.plat l = true) (v : Nibble) :
    ((s.store l v).mem.read l.key).low = v := by
  rw [store_mem, if_pos hp, Memory.read_write_same (Memory.wf_sorted hm), low_setWidth]

/-- The lines coded as outputs show what was stored in the port's latch. -/
theorem romPortOutputs_store_getLsbD {s : State} (hm : s.mem.wf) {bank : BitVec 1} {chip : Nibble}
    (hp : isPopulated s.plat (.romPort bank chip) = true) (v : Nibble) (k : Nat) {port : Fin 32}
    (hport : port.val = 16 * bank.toNat + chip.toNat) :
    ((s.store (.romPort bank chip) v).romPortOutputs bank chip).getLsbD k =
      (s.plat.romPortOutputMask[port].getLsbD k && v.getLsbD k) := by
  obtain rfl := port_eq hport
  rw [State.romPortOutputs, low_read_store hm hp, BitVec.getLsbD_and, Bool.and_comm]
  rfl

/-- Settles O47: both store the accumulator in the latch of the selected port. -/
theorem wmpAndWrrLatchPorts : Obligations.WmpAndWrrLatchPorts := by
  refine ⟨⟨encodedAs_of_decodeOneWord rfl, fun s chip reg ch hm hsel hp => ?wmp⟩,
    encodedAs_of_decodeOneWord rfl, fun s chip low hm hsel hp => ?wrr⟩
  case wmp =>
    have hexec : exec .wmp s = .next (s.store (.ramPort s.cm chip) s.acc) := onRam_of_selected hsel _
    exact ⟨_, hexec, low_read_store hm hp s.acc, memUnchangedBut_store hm _ s.acc, rfl, rfl⟩
  case wrr =>
    exact ⟨_, exec_wrr_of_selected hsel, fun k _ _ hport => romPortOutputs_store_getLsbD hm hp s.acc k hport,
      memUnchangedBut_store hm _ s.acc, rfl, rfl⟩

/-! ### Arithmetic with a RAM character (43_io_ram.md R203, R204) -/

/-- Settles O48: ADM and SBM are the adder and `sub4` of ADD and SUB, with the character loaded. -/
theorem admAndSbm : Obligations.AdmAndSbm := by
  refine ⟨⟨encodedAs_of_decodeOneWord rfl, encodedAs_of_decodeOneWord rfl⟩, fun s chip reg ch hsel hp => ?_⟩
  intro m
  have hm : (s.load (.ramm s.cm chip reg ch)).toNat = m := load_toNat hp
  refine ⟨?adm, ?sbm⟩
  case adm =>
    have hexec : exec .adm s = .next (s.setSum (add4 (s.load (.ramm s.cm chip reg ch)) s.acc s.cy)) :=
      onRam_of_selected hsel _
    rw [← hm]
    exact ⟨_, hexec, add4_value_toNat _ _ _, add4_carry_iff _ _ _, fun _ => rfl⟩
  case sbm =>
    have hexec : exec .sbm s = .next (s.setSum
        (sub4 s.plat.subCarryInComplemented s.acc (s.load (.ramm s.cm chip reg ch)) s.cy)) :=
      onRam_of_selected hsel _
    rw [← hm]
    refine ⟨_, hexec, fun _ => rfl, fun hparam => ?complemented, fun hparam => ?direct⟩
    case complemented =>
      rw [hparam]
      exact ⟨sub4_complemented_value _ _ _, sub4_complemented_carry _ _ _⟩
    case direct =>
      rw [hparam]
      exact ⟨sub4_direct_value _ _ _, sub4_direct_carry _ _ _⟩

/-! ### Invalid selections (20_memory.md R83) -/

/-- The instructions that act on the RAM selection. -/
def ramInstrs : List Instr := [.rdm, .rd0, .rd1, .rd2, .rd3, .wrm, .wr0, .wr1, .wr2, .wr3, .wmp, .adm, .sbm]

/-- Each of them is an action on the RAM selection. -/
theorem exec_eq_onRam {i : Instr} (hi : i ∈ ramInstrs) (s : State) : ∃ act, exec i s = s.onRam act := by
  simp only [ramInstrs, List.mem_cons, List.not_mem_nil, or_false] at hi
  obtain rfl | rfl | rfl | rfl | rfl | rfl | rfl | rfl | rfl | rfl | rfl | rfl | rfl := hi
  all_goals exact ⟨_, rfl⟩

theorem exec_of_ramSel_error {i : Instr} (hi : i ∈ ramInstrs) {s : State} {e : Refusal} (h : s.ramSel = .error e) :
    exec i s = .refused e := by
  obtain ⟨act, hexec⟩ := exec_eq_onRam hi s
  rw [hexec, State.onRam, h]

theorem ramSel_of_invalid {s : State} (h : ∀ l, s.sel = some l → l.cm ≠ s.cm) :
    s.ramSel = .error .ramSelectionInvalid := by
  unfold State.ramSel
  split
  case h_1 => rfl
  case h_2 l hl => rw [if_neg (h l hl)]

theorem ramSel_of_not_decoded {s : State} {l : Latched} (hl : s.sel = some l) (hcm : l.cm = s.cm)
    (h : ramCodeUsable s.plat s.cm = false) : s.ramSel = .error .ramCodeNotDecoded := by
  simp [State.ramSel, hl, hcm, h]

/-- Codes with several lines select nothing where the platform does not decode them (R68). -/
theorem ramCodeUsable_of_several_lines {p : Platform} {code : BitVec 3} (hp : p.ramCodesDecoded = false)
    (hcode : code ∈ [0b011#3, 0b101#3, 0b110#3, 0b111#3]) : ramCodeUsable p code = false := by
  rw [← Bool.not_eq_true, ramCodeUsable_iff, hp]
  revert code
  decide

theorem romAddr_of_invalid {s : State} (h : ∀ l, s.sel = some l → l.rb ≠ s.romb) :
    s.romAddr = .error .romSelectionInvalid := by
  unfold State.romAddr
  split
  case h_1 => rfl
  case h_2 l hl => rw [if_neg (h l hl)]

theorem onRomPort_of_error {s : State} {e : Refusal} (h : s.romAddr = .error e) (act : BitVec 1 → Nibble → State) :
    s.onRomPort act = .refused e := by
  rw [State.onRomPort, h]

/-- WPM and RPM stop where no program RAM is selected. -/
theorem exec_of_pramSel_error {i : Instr} (hi : i ∈ ([.wpm, .rpm] : List Instr)) {s : State} {e : Refusal}
    (h : s.pramSel = .error e) : exec i s = .refused e := by
  simp only [List.mem_cons, List.not_mem_nil, or_false] at hi
  obtain rfl | rfl := hi
  · change execWpm s = _
    rw [execWpm, h]
  · change execRpm s = _
    rw [execRpm, h]

theorem pramSel_of_no4289 {s : State} (h : s.plat.with4289 = false) : s.pramSel = .error .no4289 := by
  simp [State.pramSel, h]

theorem pramSel_of_romAddr_error {s : State} {e : Refusal} (h4289 : s.plat.with4289 = true)
    (h : s.romAddr = .error e) : s.pramSel = .error e := by
  simp [State.pramSel, h4289, h]

theorem pramSel_of_unpopulated {s : State} {addr : Byte} (h4289 : s.plat.with4289 = true) (hsel : RomSelected s addr)
    (hp : isPopulated s.plat (.pram s.extraLines addr) = false) : s.pramSel = .error .noProgramRam := by
  simp [State.pramSel, h4289, romAddr_of_selected hsel, hp]

/-- Settles O49: each cause makes the selection an error, and the instructions answer its reason. -/
theorem invalidSelectionsAreRefused : Obligations.InvalidSelectionsAreRefused := by
  refine ⟨fun i s hi => ⟨fun hsel => ?ram, fun l hl hcm hdec hcode => ?code⟩, fun i s hi hsel => ?rom,
    fun i s hi => ⟨fun h4289 => ?no4289, fun h4289 hsel => ?pramSelection, fun h4289 addr hsel hp => ?noPram⟩⟩
  case ram => exact exec_of_ramSel_error hi (ramSel_of_invalid hsel)
  case code => exact exec_of_ramSel_error hi (ramSel_of_not_decoded hl hcm (ramCodeUsable_of_several_lines hdec hcode))
  case rom =>
    have herror := romAddr_of_invalid hsel
    simp only [List.mem_cons, List.not_mem_nil, or_false] at hi
    obtain rfl | rfl := hi
    · exact (exec_rdr s).trans (onRomPort_of_error herror _)
    · exact (exec_wrr s).trans (onRomPort_of_error herror _)
  case no4289 => exact exec_of_pramSel_error hi (pramSel_of_no4289 h4289)
  case pramSelection => exact exec_of_pramSel_error hi (pramSel_of_romAddr_error h4289 (romAddr_of_invalid hsel))
  case noPram => exact exec_of_pramSel_error hi (pramSel_of_unpopulated h4289 hsel hp)

/-! ### Unpopulated chips (93 U5) -/

theorem store_of_unpopulated {s : State} {l : Loc} (h : isPopulated s.plat l = false) (v : Nibble) :
    s.store l v = s := by
  simp [State.store, h]

/-- A store through the RAM selection of a chip that is not there does nothing. -/
theorem exec_store_of_unpopulated {i : Instr} {s : State} {chip reg : BitVec 2} {ch : Nibble} {place : RamSel → Loc}
    (hsel : RamSelected s chip reg ch) (hexec : exec i s = s.onRam fun a => s.store (place a) s.acc)
    (hp : isPopulated s.plat (place ⟨s.cm, chip, reg, ch⟩) = false) : exec i s = .next s := by
  rw [hexec, onRam_of_selected hsel, store_of_unpopulated hp]

/-- An instruction on a valid RAM selection completes, whether the chip is there or not, and keeps to its
destinations. -/
theorem completes_of_ramSelected {i : Instr} (hi : i ∈ ramInstrs) {s : State} {chip reg : BitVec 2} {ch : Nibble}
    (hsel : RamSelected s chip reg ch) : Completes i s fun t => OnlyChanges (destinations i) s t := by
  obtain ⟨act, hexec⟩ := exec_eq_onRam hi s
  rw [onRam_of_selected hsel] at hexec
  exact ⟨_, hexec, onlyChanges_of_exec hexec⟩

/-- Settles O50: a store does nothing at a place that is not there, and main memory, status characters and port of a
chip are there together; the reads complete with any value. -/
theorem unpopulatedChipsAreInert : Obligations.UnpopulatedChipsAreInert := by
  refine ⟨fun s chip reg ch hsel hp => ⟨fun i hi => ?write, fun i hi => ?read, fun i hi => ?sum⟩,
    fun s chip low hsel hp => ⟨?wrr, ?rdr⟩⟩
  case write =>
    simp only [List.mem_cons, List.not_mem_nil, or_false] at hi
    obtain rfl | rfl | rfl | rfl | rfl | rfl := hi
    · exact exec_store_of_unpopulated (place := RamSel.main) hsel rfl hp
    · exact exec_store_of_unpopulated (place := fun a => a.status 0) hsel rfl hp
    · exact exec_store_of_unpopulated (place := fun a => a.status 1) hsel rfl hp
    · exact exec_store_of_unpopulated (place := fun a => a.status 2) hsel rfl hp
    · exact exec_store_of_unpopulated (place := fun a => a.status 3) hsel rfl hp
    · exact exec_store_of_unpopulated (place := fun a => .ramPort a.code a.chip) hsel rfl hp
  case read =>
    simp only [List.mem_cons, List.not_mem_nil, or_false] at hi
    obtain rfl | rfl | rfl | rfl | rfl := hi
    all_goals exact completes_of_ramSelected (by simp [ramInstrs]) hsel
  case sum =>
    simp only [List.mem_cons, List.not_mem_nil, or_false] at hi
    obtain rfl | rfl := hi
    all_goals exact completes_of_ramSelected (by simp [ramInstrs]) hsel
  case wrr => rw [exec_wrr_of_selected hsel, store_of_unpopulated hp]
  case rdr => exact ⟨_, exec_rdr_of_selected hsel, onlyChanges_of_exec (exec_rdr_of_selected hsel)⟩

/-! ### The RAM bank (44_accumulator.md R233, 20_memory.md R68) -/

/-- Settles O51: the write by `cm_dcl` and `cr3_dcl`, the two tables row by row. -/
theorem dclSelectsRamBank : Obligations.DclSelectsRamBank := by
  refine ⟨encodedAs_of_decodeOneWord rfl, fun s => ?dcl, ?lines, ?numbers, ramCodeUsable_iff⟩
  case dcl =>
    have hexec : exec .dcl s = .next { s with cr := s.cr3 ++ s.acc.setWidth 3 } := rfl
    refine ⟨_, hexec, ?_, cr3_dcl s, onlyChanges_of_exec hexec⟩
    rw [cm_dcl]
    exact BitVec.toNat_setWidth 3 s.acc
  case lines => decide
  case numbers => decide

end Sys2Proof.Ports

namespace Sys2Proof.ProgramMemory

open Sys2Proof.Machine Sys2Proof.OneWordBasic Sys2Proof.Frames Sys2Proof.Invariants Sys2Proof.Jumps
  Sys2Proof.RoundTrip Sys2Proof.Extended4040

/-! ### Which space answers (20_memory.md R61, R72) -/

theorem programLoc_of_unmapped {s : State} {a : Addr} (h : ∀ r ∈ s.plat.pramFetchMap, ¬Covers r s.romb a) :
    s.programLoc a = .rom s.romb a := by
  rw [State.programLoc, (fetchPage_eq_none_iff _ _ _).2 h]

/-- The first region that covers an address names the page. -/
theorem fetchPage_of_first {before after : List FetchRegion} {r : FetchRegion} {bank : BitVec 1} {a : Addr}
    (hbefore : ∀ q ∈ before, ¬Covers q bank a) (hr : Covers r bank a) :
    fetchPage (before ++ r :: after) bank a = some r.page := by
  rw [fetchPage_append, (fetchPage_eq_none_iff _ _ _).2 hbefore, Option.none_or, fetchPage,
    if_pos ((regionCovers_iff r bank a).2 hr)]

theorem programLoc_of_lines {s : State} {a : Addr} (h : fetchPage s.plat.pramFetchMap s.romb a = some .lines) :
    s.programLoc a = .pram s.extraLines (BitVec.ofNat 8 (a.toNat % 256)) := by
  rw [State.programLoc, h, setWidth8_eq_ofNat]

theorem programLoc_of_fixed {s : State} {a : Addr} {ext : Nibble}
    (h : fetchPage s.plat.pramFetchMap s.romb a = some (.fixed ext)) :
    s.programLoc a = .pram ext (BitVec.ofNat 8 (a.toNat % 256)) := by
  rw [State.programLoc, h, setWidth8_eq_ofNat]

/-- The map of the reset platform gives program RAM page 15 of either bank. -/
theorem fetchPage_default (bank : BitVec 1) (a : Addr) :
    fetchPage defaultPramFetchMap bank a = if 0xF00 ≤ a.toNat then some .lines else none := by
  have hbank : bank = 0 ∨ bank = 1 := by
    revert bank
    decide
  have hlast : a.toNat ≤ 4095 := Nat.le_of_lt_succ a.isLt
  obtain rfl | rfl := hbank <;> simp [fetchPage, defaultPramFetchMap, regionCovers, hlast]

theorem programLoc_of_default {s : State} (h : s.plat.pramFetchMap = defaultPramFetchMap) (a : Addr) :
    s.programLoc a =
      if 0xF00 ≤ a.toNat then .pram s.extraLines (BitVec.ofNat 8 (a.toNat % 256)) else .rom s.romb a := by
  have hpage := fetchPage_default s.romb a
  rw [← h] at hpage
  by_cases hlast : 0xF00 ≤ a.toNat
  · rw [if_pos hlast] at hpage ⊢
    exact programLoc_of_lines hpage
  · rw [if_neg hlast] at hpage ⊢
    rw [State.programLoc, hpage]

/-! ### A word that WPM wrote -/

/-- Which location answers an address depends on the map, the activated bank and the extra address lines. -/
theorem programLoc_congr {s t : State} (hplat : t.plat = s.plat) (hromb : t.romb = s.romb)
    (hlines : t.extraLines = s.extraLines) (a : Addr) : t.programLoc a = s.programLoc a := by
  rw [State.programLoc, State.programLoc, hplat, hromb, hlines]

theorem programLoc_wpmResult {s : State} (hm : s.mem.wf) (addr : Byte) (a : Addr) :
    (wpmResult s (.pram s.extraLines addr)).programLoc a = s.programLoc a :=
  programLoc_congr (s := s) (t := wpmResult s (.pram s.extraLines addr)) rfl rfl (extraLines_wpmResult hm addr s.acc) a

/-- What any location holds after a WPM: the word with its half replaced there, and the word before elsewhere. -/
theorem read_wpmResult_toNat {s : State} (hm : s.mem.wf) (l l' : Loc) :
    ((wpmResult s l).mem.read l'.key).toNat =
      if l' ≠ l then (s.mem.read l'.key).toNat
      else if s.movesHigh then 16 * s.acc.toNat + (s.mem.read l'.key).toNat % 16
      else 16 * ((s.mem.read l'.key).toNat / 16) + s.acc.toNat := by
  by_cases hl : l' = l
  · subst hl
    rw [if_neg (fun h => h rfl), read_wpmResult (Memory.wf_sorted hm), withHalf_toNat]
  · rw [if_pos hl, memUnchangedBut_write hm (wpmResult_mem s l) l'.key fun hkey => hl (key_inj hkey)]

/-- Settles O60: the fetch map by `fetchPage`, the wires by `State.extraLines`, and WPM by what it leaves at the
location that answers. -/
theorem programAddressesLocated : Obligations.ProgramAddressesLocated := by
  refine ⟨fun s a h => programLoc_of_unmapped h, fun s a before after r hmap hbefore hr => ?mapped,
    fun s a hmap => programLoc_of_default hmap a, fun s => ⟨fun h => ?none, fun code chip h => ?ram,
      fun bank chip h => ?rom⟩, fun s addr hm hsel => ?wpm⟩
  case mapped =>
    have hpage : fetchPage s.plat.pramFetchMap s.romb a = some r.page := hmap ▸ fetchPage_of_first hbefore hr
    exact ⟨fun hlines => programLoc_of_lines (hlines ▸ hpage), fun ext hext => programLoc_of_fixed (hext ▸ hpage)⟩
  case none => rw [State.extraLines, h]
  case ram => rw [State.extraLines, h]
  case rom => rw [State.extraLines, h]
  case wpm =>
    refine ⟨_, exec_wpm_of_selected hsel, fun a => ?_⟩
    intro old
    have hloc := programLoc_wpmResult hm addr a
    refine ⟨hloc, ?_⟩
    rw [hloc, read_wpmResult_toNat hm]
    exact if_congr Iff.rfl rfl (if_congr (movesHigh_iff s) rfl rfl)

end Sys2Proof.ProgramMemory
